-- ==== Sys2Proof/Word.lean ====
section
/-! DEFINITION. The words of the DVBS2-SYNC block: the 32-bit stream word, the binary32 pattern that carries a
real value on a stream (20_memory.md R63), and the complex sample (00_scope.md R9). -/

namespace Sys2Proof

/-- One word of `CMD`, `DIN` or `DOUT` (20_memory.md R63: 32 bits in the reference instantiation). -/
abbrev Word := BitVec 32

/-- A value of the real type `R`, as its IEEE 754 binary32 pattern (46_numerics.md R260, reference instantiation;
assumption log 1). -/
abbrev Real32 := BitVec 32

/-- A complex sample, real part first (00_scope.md R9, 20_memory.md R64). -/
structure C where
  re : Real32
  im : Real32
deriving DecidableEq, Repr, Inhabited

/-- The complex zero with both parts positive zero (00_scope.md R9). -/
def C0 : C := { re := 0#32, im := 0#32 }

end Sys2Proof
end

