-- ==== Sys2Proof/Config.lean ====
section
/-! DEFINITION. What is fixed for one block: the constants of 00_scope.md R7, and the FREE VALUES, the points
the spec leaves open. A free value is a constant without a body: nothing can be proved about which value it is. -/

namespace Sys2Proof

/-- The operation that produces a NaN (46_numerics.md R268: sign and payload of a produced NaN are not
specified). -/
inductive NanSource where
  | add | sub | mul | div | sqrt | cos | sin
deriving DecidableEq, Repr

/-- FREE VALUE (93_implementation_defined.md U7): the pattern an implementation proposes for the NaN that the
named operation produces on these operands. Assumption log 2. -/
opaque Config.nanBits : NanSource → Real32 → Real32 → Real32

/-- FREE VALUE (46_numerics.md R266, U13): the pattern an implementation proposes for `cos2pi`. Assumption logs 3
and 4. -/
opaque Config.cosBits : Real32 → Real32

/-- FREE VALUE (46_numerics.md R266, U13): the pattern an implementation proposes for `sin2pi`. Assumption logs 3
and 4. -/
opaque Config.sinBits : Real32 → Real32

/-- FREE VALUE (20_memory.md R68, U14): one step of the Mealy machine numbered `machine`, from the state numbered
`state`, on one sample: its next state and its answer. Assumption log 8. -/
opaque Config.mfStep : (machine state : Nat) → C → Nat × C

/-- FREE VALUE (20_memory.md R68): the initial state of the Mealy machine numbered `machine`. Assumption log 8. -/
opaque Config.mfInitial : (machine : Nat) → Nat

/-- `SOF_LEN` (00_scope.md R7). -/
def sofLen : Nat := 25

/-- `PLSC_LEN` (00_scope.md R7). -/
def plscLen : Nat := 64

/-- `HDR_LEN` (00_scope.md R7). -/
def hdrLen : Nat := 89

/-- `PIL_PERIOD` (00_scope.md R7). -/
def pilPeriod : Nat := 1476

/-- `PIL_FIRST` (00_scope.md R7). -/
def pilFirst : Nat := 1530

/-- `PIL_LEN` (00_scope.md R7): the symbols of one pilot block. -/
def pilLen : Nat := 36

/-- `PIL_LO` (00_scope.md R7). -/
def pilLo : Nat := 54

/-- `PIL_HI` (00_scope.md R7). -/
def pilHi : Nat := 90

end Sys2Proof
end

