-- ==== Sys2Proof/Machine/Real32.lean ====
section
/-! DEFINITION. Arithmetic on `R`, instantiated at IEEE 754 binary32 with round to nearest even, no flush to zero,
no trap, no fused operation (46_numerics.md R260, R261, R268; assumption log 1).

Every finite binary32 value is a whole multiple of 2^-149. `units x` is that multiple, an exact integer, so a sum is
an integer sum and a product or a quotient is a ratio of integers; `roundRatio` narrows the exact result once. -/

namespace Sys2Proof.Machine

/-- The constants of 46_numerics.md R260 as binary32 patterns. -/
def rZero : Real32 := 0x00000000#32
def rNegZero : Real32 := 0x80000000#32
def rQuarter : Real32 := 0x3E800000#32
def rHalf : Real32 := 0x3F000000#32
def rThreeQuarters : Real32 := 0x3F400000#32
def rOne : Real32 := 0x3F800000#32
def rNegOne : Real32 := 0xBF800000#32
def rTwo : Real32 := 0x40000000#32
def rFour : Real32 := 0x40800000#32

/-- The magnitude pattern of infinity. -/
def infBits : Nat := 255 * 2 ^ 23

/-- Is the sign bit set? -/
def signBit (x : Real32) : Bool := decide (2 ^ 31 ≤ x.toNat)

/-- The eight exponent bits. -/
def expField (x : Real32) : Nat := x.toNat / 2 ^ 23 % 2 ^ 8

/-- The 23 fraction bits. -/
def fracField (x : Real32) : Nat := x.toNat % 2 ^ 23

/-- The pattern without its sign bit. -/
def magBits (x : Real32) : Nat := x.toNat % 2 ^ 31

def isNaN (x : Real32) : Bool := decide (infBits < magBits x)

def isInf (x : Real32) : Bool := decide (magBits x = infBits)

def isFinite (x : Real32) : Bool := decide (magBits x < infBits)

/-- Is it a zero of either sign? -/
def isZero (x : Real32) : Bool := decide (magBits x = 0)

/-- The magnitude of a finite value in units of 2^-149. -/
def magUnits (x : Real32) : Nat :=
  if expField x = 0 then fracField x else (2 ^ 23 + fracField x) * 2 ^ (expField x - 1)

/-- A finite value in units of 2^-149. -/
def units (x : Real32) : Int := if signBit x then -(magUnits x : Int) else (magUnits x : Int)

/-- A pattern from its sign and its magnitude bits. -/
def packBits (neg : Bool) (mag : Nat) : Real32 := BitVec.ofNat 32 ((if neg then 2 ^ 31 else 0) + mag)

/-- The exponent excess of a magnitude of `q` whole units: its binary32 neighbours are 2^this units apart. -/
def ulpExp (q : Nat) : Nat := q.log2 - 23

/-- The binary32 value nearest to `num / den` units of 2^-149, ties to even, with the given sign; infinity where
the rounded magnitude reaches 2^128. -/
def roundRatio (neg : Bool) (num den : Nat) : Real32 :=
  let k := ulpExp (num / den)
  let d := den * 2 ^ k
  let m := num / d
  let r := num % d
  let m' := if d < 2 * r ∨ (2 * r = d ∧ m % 2 = 1) then m + 1 else m
  packBits neg (min (k * 2 ^ 23 + m') infBits)

/-- The NaN an operation produces: any NaN at all, a free value (46_numerics.md R268; assumption log 2). The
pattern an implementation proposes is taken when it is a NaN. -/
def freeNaN (src : NanSource) (a b : Real32) : Real32 :=
  if isNaN (Config.nanBits src a b) then Config.nanBits src a b else 0x7FC00000#32

/-- Exact sign flip, also of zeros and NaNs (46_numerics.md R261: `conj`; 42_coarse_freq.md R171: `−R`). -/
def rNeg (x : Real32) : Real32 := x ^^^ 0x80000000#32

/-- The correctly rounded sum, `src` naming the operation to which a NaN is owed. -/
def addAs (src : NanSource) (a b b' : Real32) : Real32 :=
  if isNaN a ∨ isNaN b' then freeNaN src a b
  else if isInf a then (if isInf b' ∧ signBit a ≠ signBit b' then freeNaN src a b else a)
  else if isInf b' then b'
  else
    let u := units a + units b'
    if u = 0 then (if signBit a ∧ signBit b' then rNegZero else rZero)
    else roundRatio (decide (u < 0)) u.natAbs 1

/-- `a +R b` (46_numerics.md R260). -/
def rAdd (a b : Real32) : Real32 := addAs .add a b b

/-- `a −R b` (46_numerics.md R260). -/
def rSub (a b : Real32) : Real32 := addAs .sub a b (rNeg b)

/-- `a ×R b` (46_numerics.md R260). -/
def rMul (a b : Real32) : Real32 :=
  let neg := signBit a != signBit b
  if isNaN a ∨ isNaN b then freeNaN .mul a b
  else if isInf a then (if isZero b then freeNaN .mul a b else packBits neg infBits)
  else if isInf b then (if isZero a then freeNaN .mul a b else packBits neg infBits)
  else roundRatio neg (magUnits a * magUnits b) (2 ^ 149)

/-- `a /R b` (46_numerics.md R260). -/
def rDiv (a b : Real32) : Real32 :=
  let neg := signBit a != signBit b
  if isNaN a ∨ isNaN b then freeNaN .div a b
  else if isInf a then (if isInf b then freeNaN .div a b else packBits neg infBits)
  else if isInf b then packBits neg 0
  else if isZero b then (if isZero a then freeNaN .div a b else packBits neg infBits)
  else roundRatio neg (magUnits a * 2 ^ 149) (magUnits b)

/-- The whole square root below `2^bits`, from the top bit down, `r` being the part already found. -/
def isqrtFrom (n : Nat) : (bits r : Nat) → Nat
  | 0, r => r
  | k + 1, r => isqrtFrom n k (if (r + 2 ^ k) * (r + 2 ^ k) ≤ n then r + 2 ^ k else r)

/-- The whole square root of a number below 2^428. -/
def isqrt (n : Nat) : Nat := isqrtFrom n 214 0

/-- `sqrtR(v)` (46_numerics.md R265): correctly rounded; NaN for a negative value. A root of `n` units squared lies
between `isqrt n` and the next integer, and so far above 2^24 that no rounding boundary lies strictly between
them: the half in between stands for every inexact root. -/
def rSqrt (v : Real32) : Real32 :=
  if isNaN v then freeNaN .sqrt v v
  else if isZero v then v
  else if signBit v then freeNaN .sqrt v v
  else if isInf v then v
  else
    let n := magUnits v * 2 ^ 149
    let q := isqrt n
    roundRatio false (2 * q + (if q * q = n then 0 else 1)) 2

/-- `floorR(v)` (00_scope.md R12): the largest integer-valued `R` not above `v`; a NaN or an infinity is its own
floor (46_numerics.md R268). A zero result keeps the sign of `v` (assumption log 6). -/
def rFloor (v : Real32) : Real32 :=
  if isFinite v then
    let f := units v / 2 ^ 149
    if f = 0 then packBits (signBit v) 0 else roundRatio (decide (f < 0)) (f.natAbs * 2 ^ 149) 1
  else v

/-- `fracR(v) = v −R floorR(v)` (00_scope.md R12). -/
def rFrac (v : Real32) : Real32 := rSub v (rFloor v)

/-- The place of a value that is no NaN in the order of `R`; the two zeros share a place. -/
def orderKey (x : Real32) : Int := if signBit x then -(magBits x : Int) else (magBits x : Int)

/-- `a <R b` (00_scope.md R12): false when either side is a NaN. -/
def rLt (a b : Real32) : Bool := !isNaN a && !isNaN b && decide (orderKey a < orderKey b)

/-- `a >R b` (00_scope.md R12): false when either side is a NaN. -/
def rGt (a b : Real32) : Bool := rLt b a

/-- `maxR(a, b)` (00_scope.md R12): `a` if `a >R b`, else `b`. -/
def rMax (a b : Real32) : Real32 := if rGt a b then a else b

/-- `toR(n)` (46_numerics.md R260): exact for the integers 1..32. -/
def toR (n : Nat) : Real32 := roundRatio false (n * 2 ^ 149) 1

end Sys2Proof.Machine
end

