-- ==== Sys2Proof/Machine/Complex.lean ====
section
/-! DEFINITION. Complex arithmetic, each operation expanded exactly as 00_scope.md R12 writes it. -/

namespace Sys2Proof.Machine

def cConj (z : C) : C := { re := z.re, im := rNeg z.im }

def cAdd (a b : C) : C := { re := rAdd a.re b.re, im := rAdd a.im b.im }

def cSub (a b : C) : C := { re := rSub a.re b.re, im := rSub a.im b.im }

def cScale (r : Real32) (z : C) : C := { re := rMul r z.re, im := rMul r z.im }

def cMul (a b : C) : C :=
  { re := rSub (rMul a.re b.re) (rMul a.im b.im)
    im := rAdd (rMul a.re b.im) (rMul a.im b.re) }

/-- `cabs(z)` (00_scope.md R12, 46_numerics.md R265): the plain formula, unscaled. -/
def cAbs (z : C) : Real32 := rSqrt (rAdd (rMul z.re z.re) (rMul z.im z.im))

end Sys2Proof.Machine
end

