-- ==== Sys2Proof/Syntax.lean ====
section
/-! DEFINITION. The 19 operations of 30_encoding.md R92, one constructor per row of the opcode table. -/

namespace Sys2Proof

/-- One operation. Only `CFG.WR` and `CFG.RD` carry an immediate, the configuration register address `a`
(30_encoding.md R90, R91); all other operands travel on `DIN`. -/
inductive Instr where
  | sysBuild
  | sysReset
  | cfgWr (a : Nat)
  | cfgRd (a : Nat)
  | farStep
  | farSetmu
  | farReset
  | garStep
  | garSync
  | garExtract
  | garReset
  | cfrStep
  | cfrSync
  | cfrUpd
  | cfrReset
  | frmSync
  | frmReset
  | synSync
  | synReset
deriving DecidableEq, Repr

end Sys2Proof
end

