-- ==== Sys2Proof/WellFormed.lean ====
section
/-! DEFINITION. The terms of `Instr` that an encoding exists for. -/

namespace Sys2Proof

/-- The one field an encoding bounds is `imm16`, the 16-bit address of `CFG.WR` and `CFG.RD` (30_encoding.md R90,
R91). An address without a register is well formed: it decodes, and the operation raises `BadAccess`. -/
def wellFormed : Instr → Bool
  | .cfgWr a => decide (a < 2 ^ 16)
  | .cfgRd a => decide (a < 2 ^ 16)
  | .sysBuild | .sysReset | .farStep | .farSetmu | .farReset | .garStep | .garSync | .garExtract | .garReset
  | .cfrStep | .cfrSync | .cfrUpd | .cfrReset | .frmSync | .frmReset | .synSync | .synReset => true

end Sys2Proof
end

