-- ==== Sys2Proof/Decode.lean ====
section
/-! DEFINITION. Decoding of a command word (30_encoding.md R90 to R95), and after it the encoder. -/

namespace Sys2Proof

/-- Why a word selects no operation: the four cases of 30_encoding.md R95. All of them raise `Unimplemented`. -/
inductive DecodeError where
  /-- `unit` is 6..15. -/
  | unassignedUnit
  /-- `fn` is unassigned in this unit. -/
  | unassignedFn
  /-- The `zero` field is not zero. -/
  | nonzeroZero
  /-- `imm16` is not zero on an operation without an address. -/
  | nonzeroImm
deriving DecidableEq, Repr

/-- `cw[31:28]` (30_encoding.md R90). -/
def unitField (cw : Word) : Nat := cw.toNat / 2 ^ 28

/-- `cw[27:24]` (30_encoding.md R90). -/
def fnField (cw : Word) : Nat := cw.toNat / 2 ^ 24 % 2 ^ 4

/-- `cw[23:16]` (30_encoding.md R90). -/
def zeroField (cw : Word) : Nat := cw.toNat / 2 ^ 16 % 2 ^ 8

/-- `cw[15:0]` (30_encoding.md R90): unsigned, used as is. -/
def immField (cw : Word) : Nat := cw.toNat % 2 ^ 16

/-- The operation of a unit and function number (30_encoding.md R92), given the address field. -/
def selectOp (unit fn imm : Nat) : Except DecodeError Instr :=
  match unit, fn with
  | 0, 1 => .ok .sysBuild
  | 0, 4 => .ok .sysReset
  | 0, 5 => .ok (.cfgWr imm)
  | 0, 6 => .ok (.cfgRd imm)
  | 1, 1 => .ok .farStep
  | 1, 3 => .ok .farSetmu
  | 1, 4 => .ok .farReset
  | 2, 1 => .ok .garStep
  | 2, 2 => .ok .garSync
  | 2, 3 => .ok .garExtract
  | 2, 4 => .ok .garReset
  | 3, 1 => .ok .cfrStep
  | 3, 2 => .ok .cfrSync
  | 3, 3 => .ok .cfrUpd
  | 3, 4 => .ok .cfrReset
  | 4, 2 => .ok .frmSync
  | 4, 4 => .ok .frmReset
  | 5, 2 => .ok .synSync
  | 5, 4 => .ok .synReset
  | u, _ => if u < 6 then .error .unassignedFn else .error .unassignedUnit

/-- Does the operation use `imm16`? (30_encoding.md R90: `CFG.WR` and `CFG.RD` only.) -/
def usesImm : Instr → Bool
  | .cfgWr _ | .cfgRd _ => true
  | .sysBuild | .sysReset | .farStep | .farSetmu | .farReset | .garStep | .garSync | .garExtract | .garReset
  | .cfrStep | .cfrSync | .cfrUpd | .cfrReset | .frmSync | .frmReset | .synSync | .synReset => false

/-- Decode one command word: the operation, or the name of what makes the word unimplemented (30_encoding.md R93
steps 1 and 2, R95). -/
def decode (cw : Word) : Except DecodeError Instr :=
  match selectOp (unitField cw) (fnField cw) (immField cw) with
  | .error e => .error e
  | .ok i =>
    if zeroField cw ≠ 0 then .error .nonzeroZero
    else if usesImm i = false ∧ immField cw ≠ 0 then .error .nonzeroImm
    else .ok i

/-- The `match` column of 30_encoding.md R92. -/
def opcodeOf : Instr → Nat
  | .sysBuild => 0x01000000
  | .sysReset => 0x04000000
  | .cfgWr _ => 0x05000000
  | .cfgRd _ => 0x06000000
  | .farStep => 0x11000000
  | .farSetmu => 0x13000000
  | .farReset => 0x14000000
  | .garStep => 0x21000000
  | .garSync => 0x22000000
  | .garExtract => 0x23000000
  | .garReset => 0x24000000
  | .cfrStep => 0x31000000
  | .cfrSync => 0x32000000
  | .cfrUpd => 0x33000000
  | .cfrReset => 0x34000000
  | .frmSync => 0x42000000
  | .frmReset => 0x44000000
  | .synSync => 0x52000000
  | .synReset => 0x54000000

/-- The `mask` column of 30_encoding.md R92. -/
def opcodeMask : Instr → Word
  | .cfgWr _ | .cfgRd _ => 0xFFFF0000#32
  | .sysBuild | .sysReset | .farStep | .farSetmu | .farReset | .garStep | .garSync | .garExtract | .garReset
  | .cfrStep | .cfrSync | .cfrUpd | .cfrReset | .frmSync | .frmReset | .synSync | .synReset => 0xFFFFFFFF#32

/-- The address field of an operation; 0 for every operation without one (30_encoding.md R90). -/
def immOf : Instr → Nat
  | .cfgWr a => a
  | .cfgRd a => a
  | .sysBuild | .sysReset | .farStep | .farSetmu | .farReset | .garStep | .garSync | .garExtract | .garReset
  | .cfrStep | .cfrSync | .cfrUpd | .cfrReset | .frmSync | .frmReset | .synSync | .synReset => 0

/-- The command word of an operation (30_encoding.md R92, 45_system_ops.md R242, R244: `cw = match | a`). -/
def encode (i : Instr) : Word := BitVec.ofNat 32 (opcodeOf i + immOf i)

/-- The instruction the decoder reads from an instruction of `nbits` table bits equal to `w`, the bits above
`nbits` being 0. Every operation is one 32-bit word, so there is no second word to lay out. -/
def decodeTableWord (nbits w : Nat) : Option Instr :=
  (decode (BitVec.ofNat 32 (w % 2 ^ nbits))).toOption

end Sys2Proof
end

