-- ==== Sys2Proof/Machine/State.lean ====
section
/-! DEFINITION. The state of the block (10_state.md R20 to R42) and of its ports (20_memory.md R61), and the state
right after hardware reset (70_reset_and_hazards.md R301). Plain data throughout. -/

namespace Sys2Proof.Machine

/-- The construction phase (10_state.md R42, 60_exceptions.md R292). -/
inductive Phase where
  | config
  | run
  | failed
deriving DecidableEq, Repr

/-- The status codes of 60_exceptions.md R281, in code order 0 to 4. -/
inductive Status where
  | ok
  | configError
  | processingAborted
  | unimplemented
  | badAccess
deriving DecidableEq, Repr

/-- `far.h[0..3]` (10_state.md R22): `h3` is the newest sample, `h0` the oldest. -/
structure FarHistory where
  h0 : C
  h1 : C
  h2 : C
  h3 : C
deriving DecidableEq, Repr

/-- `far.b[0..3]` (10_state.md R22). -/
structure FarCoef where
  b0 : Real32
  b1 : Real32
  b2 : Real32
  b3 : Real32
deriving DecidableEq, Repr

/-- FAR state (10_state.md R22). -/
structure Far where
  h : FarHistory
  b : FarCoef
  mu : Real32
deriving DecidableEq, Repr

/-- GAR state (10_state.md R23, R24). `ted` has OSF entries in phase RUN, entry 0 newest; `oring` is oldest
first; `sh` is OSF bits wide, bit 0 the flag of the sample being processed. -/
structure Gar where
  isStrobe : Bool
  sh : Nat
  ted : List C
  tedErr : Real32
  lfState : Real32
  lfOut : Real32
  nco : Real32
  mu : Real32
  lastSym : C
  kp : Real32
  ki : Real32
  oring : List C
  ovfCnt : Nat
  udfCnt : Nat
deriving DecidableEq, Repr

/-- CFR state (10_state.md R30). -/
structure Cfr where
  theta : Real32
  freq : Real32
  lfState : Real32
  err : Real32
  p1 : C
  p2 : C
  active : Bool
  kp : Real32
  ki : Real32
deriving DecidableEq, Repr

/-- FRM state (10_state.md R34). `hist` has 89 entries, the last one newest; `cs` and `dl` have N_SYM entries in
phase RUN; the references have 25 and 64 entries. -/
structure Frm where
  hist : List C
  cs : List Real32
  dl : List C
  delay : Nat
  maxIdx : Nat
  maxCorr : Real32
  flag : Bool
  alpha : Real32
  trigger : Real32
  refSof : List C
  refPlsc : List C
deriving DecidableEq, Repr

/-- SYN state (10_state.md R38). -/
structure Syn where
  symIdx : Nat
deriving DecidableEq, Repr

/-- SYS state (10_state.md R42). `faultLast` is `ok` while no fault has occurred. -/
structure Sys where
  phase : Phase
  faultLast : Status
  faultMask : BitVec 5
  osf : Word
  nsym : Word
  oringCap : Word
  gainmode : Word
  garZeta : Real32
  garBn : Real32
  garKd : Real32
  cfrZeta : Real32
  cfrBn : Real32
  cfrKd : Real32
deriving DecidableEq, Repr

/-- The external matched filter attached to `MF_OUT`/`MF_IN` (20_memory.md R68), with its present state. The
MODEL's own field: a parameter of the environment, not block state (10_state.md R20). Assumption log 8. -/
inductive MatchedFilter where
  /-- The identity filter, the one the vectors of 95_test_vectors.md attach. -/
  | passThrough
  /-- Any deterministic Mealy machine, by number; its step and its initial state are free values of Config. -/
  | mealy (machine state : Nat)
deriving DecidableEq, Repr

/-- The block and what stands on its ports. `far` to `sys` are the block's state (10_state.md R20); `rst`, `cmd`,
`din`, `dout`, `stat` (each oldest first) and `mf` are its environment's (assumption logs 8, 11, 12). -/
structure State where
  far : Far
  gar : Gar
  cfr : Cfr
  frm : Frm
  syn : Syn
  sys : Sys
  rst : Bool
  cmd : List Word
  din : List Word
  dout : List Word
  stat : List Status
  mf : MatchedFilter
deriving DecidableEq, Repr

/-- Where the block has no step. Both are the waiting of the spec, not an error of the block, and both are safe: the
block goes on only when the host supplies a word. Assumption log 10. -/
inductive Fault where
  /-- Raised by `step` when `CMD` is empty: the block waits for a command word (70_reset_and_hazards.md R300).
  Safe. -/
  | noCommand
  /-- Raised by an operation that pops words when `DIN` holds fewer than it pops: the operation does not start
  (20_memory.md R66: stuck, not a fault of the block). Safe. -/
  | waitingForDin
deriving DecidableEq, Repr

/-- Why the model gives an operation no meaning. -/
inductive Refusal where
  /-- No arm of `exec` raises it: every operation of the table has its meaning. Safe. -/
  | notModelled (mnemonic : String)
deriving DecidableEq, Repr

/-- FAR after hardware reset, which is also FAR after `FAR.RESET` (10_state.md R22): zero window and the
coefficients (0, 1, 0, 0). -/
def Far.reset : Far :=
  { h := { h0 := C0, h1 := C0, h2 := C0, h3 := C0 }
    b := { b0 := 0#32, b1 := 0x3F800000#32, b2 := 0#32, b3 := 0#32 }
    mu := 0#32 }

/-- GAR after hardware reset (10_state.md R23, R24, HR column). -/
def Gar.reset : Gar :=
  { isStrobe := false, sh := 0, ted := [], tedErr := 0#32, lfState := 0#32, lfOut := 0#32, nco := 0#32, mu := 0#32
    lastSym := C0, kp := 0#32, ki := 0#32, oring := [], ovfCnt := 0, udfCnt := 0 }

/-- CFR after hardware reset (10_state.md R30, HR column). -/
def Cfr.reset : Cfr :=
  { theta := 0#32, freq := 0#32, lfState := 0#32, err := 0#32, p1 := C0, p2 := C0, active := false
    kp := 0#32, ki := 0#32 }

/-- FRM after hardware reset (10_state.md R34, HR column). -/
def Frm.reset : Frm :=
  { hist := List.replicate 89 C0, cs := [], dl := [], delay := 0, maxIdx := 0, maxCorr := 0#32, flag := false
    alpha := 0#32, trigger := 0#32, refSof := List.replicate 25 C0, refPlsc := List.replicate 64 C0 }

/-- SYN after hardware reset (10_state.md R38). -/
def Syn.reset : Syn := { symIdx := 0 }

/-- SYS after hardware reset (10_state.md R42). -/
def Sys.reset : Sys :=
  { phase := .config, faultLast := .ok, faultMask := 0#5, osf := 0#32, nsym := 0#32, oringCap := 0#32
    gainmode := 0#32, garZeta := 0#32, garBn := 0#32, garKd := 0#32, cfrZeta := 0#32, cfrBn := 0#32
    cfrKd := 0#32 }

/-- The machine right after hardware reset (70_reset_and_hazards.md R300, R301): the HR column of every table, no
word on `DIN`, `DOUT` and `STAT`. No command has been issued (assumption log 12), and the matched filter is an
arbitrary one (assumption log 8). -/
def State.reset : State :=
  { far := Far.reset, gar := Gar.reset, cfr := Cfr.reset, frm := Frm.reset, syn := Syn.reset, sys := Sys.reset
    rst := false, cmd := [], din := [], dout := [], stat := [], mf := .mealy 0 0 }

end Sys2Proof.Machine
end

