-- ==== Sys2Proof/Machine/Ops.lean ====
section
/-! DEFINITION. The operations every instruction shares: the geometry of the constructed block, who may run in which
phase, the taking of a fault, the end of an operation, the matched-filter port, the `RST` event, and the taking of
a command word. -/

namespace Sys2Proof.Machine

/-- What one step or one meaning answers. -/
abbrev Result := Host.Outcome State Fault Refusal

/-- An `Int32` word that must not be negative, as a number (46_numerics.md R263). -/
def natOfInt32 (w : Word) : Nat := w.toInt.toNat

/-- OSF (45_system_ops.md R236 line 13; `CFG_OSF` is frozen by `SYS.BUILD`; assumption log 9). -/
def osf (s : State) : Nat := natOfInt32 s.sys.osf

/-- N_SYM (R236 line 13). -/
def nSym (s : State) : Nat := natOfInt32 s.sys.nsym

/-- ORING_CAP (R236 line 13). -/
def oringCap (s : State) : Nat := natOfInt32 s.sys.oringCap

/-- N_SMP = OSF · N_SYM (R236 line 13). -/
def nSmp (s : State) : Nat := osf s * nSym s

/-- INV_OSF = 1 /R toR(OSF) (R236 line 13). -/
def invOsf (s : State) : Real32 := rDiv rOne (toR (osf s))

/-- The phases an operation is permitted in (30_encoding.md R92, 60_exceptions.md R292). -/
def permittedIn : Instr → Phase → Bool
  | .sysBuild, p => p == .config
  | .cfgWr _, p => p == .config || p == .run
  | .cfgRd _, _ => true
  | .sysReset, p | .farStep, p | .farSetmu, p | .farReset, p | .garStep, p | .garSync, p | .garExtract, p
  | .garReset, p | .cfrStep, p | .cfrSync, p | .cfrUpd, p | .cfrReset, p | .frmSync, p | .frmReset, p
  | .synSync, p | .synReset, p => p == .run

/-- How many words an operation pops from `DIN` (30_encoding.md R92, 20_memory.md R65). -/
def dinWords (s : State) : Instr → Nat
  | .cfgWr _ | .farSetmu => 1
  | .farStep | .garStep | .cfrStep | .cfrUpd => 2
  | .garSync | .cfrSync | .synSync => 2 * nSmp s
  | .frmSync => 2 * nSym s
  | .sysBuild | .sysReset | .cfgRd _ | .farReset | .garExtract | .garReset | .cfrReset | .frmReset | .synReset => 0

/-- The code of a status (60_exceptions.md R281). -/
def statusCode : Status → Nat
  | .ok => 0
  | .configError => 1
  | .processingAborted => 2
  | .unimplemented => 3
  | .badAccess => 4

/-- `STAT.push` (00_scope.md R11). -/
def pushStat (st : Status) (s : State) : State := { s with stat := s.stat ++ [st] }

/-- The fault registers after a fault (60_exceptions.md R290): the last code, its mask bit, and for a
`ConfigError` the phase FAILED. -/
def recordFault (st : Status) (y : Sys) : Sys :=
  { y with
    faultLast := st
    faultMask := y.faultMask ||| (1#5 <<< statusCode st)
    phase := if st = .configError then .failed else y.phase }

/-- TAKING A FAULT, for every non-zero status (60_exceptions.md R290): the fault registers, then the code on
`STAT`. Nothing else is saved and control goes nowhere; there is no return operation (R291), the block accepts
the next command word. -/
def takeFault (st : Status) (s : State) : State := pushStat st { s with sys := recordFault st s.sys }

/-- The end of an operation (60_exceptions.md R280): exactly one word on `STAT`, and the fault registers when the
status is not zero. -/
def finish (st : Status) (s : State) : State := if st = .ok then pushStat .ok s else takeFault st s

/-- Steps 3 and 4 of the decode procedure (30_encoding.md R93): an operation outside its phases raises `BadAccess`
and pops nothing; one whose words are not all on `DIN` does not start (20_memory.md R66); otherwise its rule runs,
`body` being the rule with its status word. -/
def runOp (i : Instr) (body : State → State) (s : State) : Result :=
  if permittedIn i s.sys.phase then
    if s.din.length < dinWords s i then .fault .waitingForDin else .next (body s)
  else .next (takeFault .badAccess s)

/-- `MF.step(z)` (20_memory.md R68): the filter's next state and its answer. -/
def mfStep (m : MatchedFilter) (z : C) : MatchedFilter × C :=
  match m with
  | .passThrough => (.passThrough, z)
  | .mealy k q => (.mealy k (Config.mfStep k q z).1, (Config.mfStep k q z).2)

/-- `MF.reset()` (20_memory.md R68). -/
def mfReset (m : MatchedFilter) : MatchedFilter :=
  match m with
  | .passThrough => .passThrough
  | .mealy k _ => .mealy k (Config.mfInitial k)

/-- The `RST` event (70_reset_and_hazards.md R300): every state element at its HR value, `DIN` emptied, the words
on `DOUT` and `STAT` discarded; the matched filter is not touched. Command words not yet taken are the host's and
stay. DESIGN CHOICE: an operation that waits for its `DIN` words has not started (20_memory.md R66), so it is no
operation in progress that the event abandons: its word stays on `CMD` too and is decoded again after the event
(assumption log 12). -/
def hardwareReset (s : State) : State := { State.reset with cmd := s.cmd, mf := s.mf }

/-- Take the next command word from `CMD`, if there is one. -/
def takeCommand (s : State) : Option (Word × State) :=
  match s.cmd with
  | [] => none
  | cw :: rest => some (cw, { s with cmd := rest })

/-- A command word that selects no operation (30_encoding.md R93 step 2, R95; 60_exceptions.md R286). -/
def raiseUnimplemented (s : State) : State := takeFault .unimplemented s

end Sys2Proof.Machine
end

