-- ==== Sys2Proof/Machine/Operands.lean ====
section
/-! DEFINITION. The operand forms: words and complex samples popped from `DIN`, results pushed on `DOUT`
(00_scope.md R11, 20_memory.md R63 to R65), and the sliding windows (00_scope.md R10). -/

namespace Sys2Proof.Machine

/-- `DIN.pop()`. It is called only when `DIN` holds the word (`runOp`). -/
def popWord (s : State) : Word × State := (s.din.headD 0#32, { s with din := s.din.tail })

/-- The first `n` complex samples of a stream, real part first (20_memory.md R64). -/
def samplesOf : (n : Nat) → List Word → List C
  | n + 1, re :: im :: rest => { re := re, im := im } :: samplesOf n rest
  | _, _ => []

/-- `popC()` `n` times: a block of `n` complex samples (00_scope.md R11). -/
def popBlock (n : Nat) (s : State) : List C × State := (samplesOf n s.din, { s with din := s.din.drop (2 * n) })

/-- `popC()` (00_scope.md R11). -/
def popC (s : State) : C × State :=
  ({ re := s.din.headD 0#32, im := s.din.tail.headD 0#32 }, { s with din := s.din.drop 2 })

/-- `DOUT.push` of a list of words, in order. -/
def pushWords (ws : List Word) (s : State) : State := { s with dout := s.dout ++ ws }

/-- The stream words of complex samples, real part first (20_memory.md R64). -/
def wordsOf (zs : List C) : List Word := zs.flatMap fun z => [z.re, z.im]

/-- The `Int32` word of a flag (45_system_ops.md R244: Bit-valued elements read as 0 or 1). -/
def boolWord (b : Bool) : Word := if b then 1#32 else 0#32

/-- `shift_in(w, v)` (00_scope.md R10): the newest element at the highest index, the length unchanged. -/
def shiftIn {α : Type} (w : List α) (v : α) : List α := (w ++ [v]).tail

/-- `shift_in_front(w, v)` (00_scope.md R10): the newest element at index 0, the length unchanged. -/
def shiftInFront {α : Type} (w : List α) (v : α) : List α := (v :: w).dropLast

end Sys2Proof.Machine
end

