-- ==== Sys2Proof/Machine/ConfigRegs.lean ====
section
/-! DEFINITION. The configuration and status register file (10_state.md R50, R52): which register an address names,
who may write it, what it reads as and what a write to it changes. -/

namespace Sys2Proof.Machine

/-- The registers of 10_state.md R50. The references carry their index `k`. -/
inductive CfgReg where
  | sysId | sysPhase | sysFaultLast | sysFaultMask
  | cfgOsf | cfgNsym | cfgOringCap | cfgGainmode
  | garZeta | garBn | garKd | garKp | garKi
  | garMu | garStrobe | garSymRe | garSymIm | garOvf | garUdf | garFill
  | garNco | garLfState | garLfOut | garTedErr | garSh
  | farMu | farB0 | farB1 | farB2 | farB3
  | cfrZeta | cfrBn | cfrKd | cfrKp | cfrKi
  | cfrActive | cfrFreq | cfrTheta | cfrLfState | cfrErr
  | frmAlpha | frmTrigger | frmDelay | frmFlag | frmTri | frmMaxIdx
  | refSofRe (k : Nat) | refSofIm (k : Nat) | refPlscRe (k : Nat) | refPlscIm (k : Nat)
  | synSymIdx
deriving DecidableEq, Repr

/-- The access classes of 10_state.md R50: `rwc` is writable only in phase CONFIG, `rw` in CONFIG and RUN. -/
inductive Access where
  | ro
  | rwc
  | rw
deriving DecidableEq, Repr

/-- The register at an address (10_state.md R50); `none` where the address is unmapped. -/
def cfgRegAt (a : Nat) : Option CfgReg :=
  match a with
  | 0x0000 => some .sysId
  | 0x0001 => some .sysPhase
  | 0x0002 => some .sysFaultLast
  | 0x0003 => some .sysFaultMask
  | 0x0008 => some .cfgOsf
  | 0x0009 => some .cfgNsym
  | 0x000A => some .cfgOringCap
  | 0x000B => some .cfgGainmode
  | 0x0100 => some .garZeta
  | 0x0101 => some .garBn
  | 0x0102 => some .garKd
  | 0x0103 => some .garKp
  | 0x0104 => some .garKi
  | 0x0108 => some .garMu
  | 0x0109 => some .garStrobe
  | 0x010A => some .garSymRe
  | 0x010B => some .garSymIm
  | 0x010C => some .garOvf
  | 0x010D => some .garUdf
  | 0x010E => some .garFill
  | 0x0110 => some .garNco
  | 0x0111 => some .garLfState
  | 0x0112 => some .garLfOut
  | 0x0113 => some .garTedErr
  | 0x0114 => some .garSh
  | 0x0118 => some .farMu
  | 0x011C => some .farB0
  | 0x011D => some .farB1
  | 0x011E => some .farB2
  | 0x011F => some .farB3
  | 0x0200 => some .cfrZeta
  | 0x0201 => some .cfrBn
  | 0x0202 => some .cfrKd
  | 0x0203 => some .cfrKp
  | 0x0204 => some .cfrKi
  | 0x0208 => some .cfrActive
  | 0x0209 => some .cfrFreq
  | 0x020A => some .cfrTheta
  | 0x020B => some .cfrLfState
  | 0x020C => some .cfrErr
  | 0x0300 => some .frmAlpha
  | 0x0301 => some .frmTrigger
  | 0x0308 => some .frmDelay
  | 0x0309 => some .frmFlag
  | 0x030A => some .frmTri
  | 0x030B => some .frmMaxIdx
  | 0x0500 => some .synSymIdx
  | a =>
    if 0x0400 ≤ a ∧ a ≤ 0x0431 then
      some (if a % 2 = 0 then .refSofRe ((a - 0x0400) / 2) else .refSofIm ((a - 0x0400) / 2))
    else if 0x0480 ≤ a ∧ a ≤ 0x04FF then
      some (if a % 2 = 0 then .refPlscRe ((a - 0x0480) / 2) else .refPlscIm ((a - 0x0480) / 2))
    else none

/-- The access column of 10_state.md R50. -/
def cfgAccess : CfgReg → Access
  | .cfgOsf | .cfgNsym | .cfgOringCap | .cfgGainmode
  | .garZeta | .garBn | .garKd | .garKp | .garKi
  | .cfrZeta | .cfrBn | .cfrKd | .cfrKp | .cfrKi
  | .frmAlpha | .frmTrigger
  | .refSofRe _ | .refSofIm _ | .refPlscRe _ | .refPlscIm _ => .rwc
  | .cfrActive | .synSymIdx => .rw
  | .sysId | .sysPhase | .sysFaultLast | .sysFaultMask
  | .garMu | .garStrobe | .garSymRe | .garSymIm | .garOvf | .garUdf | .garFill
  | .garNco | .garLfState | .garLfOut | .garTedErr | .garSh
  | .farMu | .farB0 | .farB1 | .farB2 | .farB3
  | .cfrFreq | .cfrTheta | .cfrLfState | .cfrErr
  | .frmDelay | .frmFlag | .frmTri | .frmMaxIdx => .ro

/-- `SYS_ID` (10_state.md R50): ASCII "DVS2". -/
def sysIdWord : Word := 0x44565332#32

/-- The code of a phase (60_exceptions.md R292). -/
def phaseCode : Phase → Word
  | .config => 0#32
  | .run => 1#32
  | .failed => 2#32

/-- A counter as a register shows it (10_state.md R52, 46_numerics.md R263): saturated. -/
def counterWord (n : Nat) : Word := BitVec.ofNat 32 (min n (2 ^ 32 - 1))

/-- `CfgRead` (10_state.md R50). -/
def cfgRead (r : CfgReg) (s : State) : Word :=
  match r with
  | .sysId => sysIdWord
  | .sysPhase => phaseCode s.sys.phase
  | .sysFaultLast => BitVec.ofNat 32 (statusCode s.sys.faultLast)
  | .sysFaultMask => s.sys.faultMask.setWidth 32
  | .cfgOsf => s.sys.osf
  | .cfgNsym => s.sys.nsym
  | .cfgOringCap => s.sys.oringCap
  | .cfgGainmode => s.sys.gainmode
  | .garZeta => s.sys.garZeta
  | .garBn => s.sys.garBn
  | .garKd => s.sys.garKd
  | .garKp => s.gar.kp
  | .garKi => s.gar.ki
  | .garMu => s.gar.mu
  | .garStrobe => boolWord s.gar.isStrobe
  | .garSymRe => s.gar.lastSym.re
  | .garSymIm => s.gar.lastSym.im
  | .garOvf => counterWord s.gar.ovfCnt
  | .garUdf => counterWord s.gar.udfCnt
  | .garFill => BitVec.ofNat 32 s.gar.oring.length
  | .garNco => s.gar.nco
  | .garLfState => s.gar.lfState
  | .garLfOut => s.gar.lfOut
  | .garTedErr => s.gar.tedErr
  | .garSh => BitVec.ofNat 32 s.gar.sh
  | .farMu => s.far.mu
  | .farB0 => s.far.b.b0
  | .farB1 => s.far.b.b1
  | .farB2 => s.far.b.b2
  | .farB3 => s.far.b.b3
  | .cfrZeta => s.sys.cfrZeta
  | .cfrBn => s.sys.cfrBn
  | .cfrKd => s.sys.cfrKd
  | .cfrKp => s.cfr.kp
  | .cfrKi => s.cfr.ki
  | .cfrActive => boolWord s.cfr.active
  | .cfrFreq => s.cfr.freq
  | .cfrTheta => s.cfr.theta
  | .cfrLfState => s.cfr.lfState
  | .cfrErr => s.cfr.err
  | .frmAlpha => s.frm.alpha
  | .frmTrigger => s.frm.trigger
  | .frmDelay => BitVec.ofNat 32 s.frm.delay
  | .frmFlag => boolWord s.frm.flag
  | .frmTri => s.frm.maxCorr
  | .frmMaxIdx => BitVec.ofNat 32 s.frm.maxIdx
  | .refSofRe k => (s.frm.refSof.getD k C0).re
  | .refSofIm k => (s.frm.refSof.getD k C0).im
  | .refPlscRe k => (s.frm.refPlsc.getD k C0).re
  | .refPlscIm k => (s.frm.refPlsc.getD k C0).im
  | .synSymIdx => BitVec.ofNat 32 s.syn.symIdx

/-- Replace the real part of entry `k`. -/
def setRe (zs : List C) (k : Nat) (v : Real32) : List C := zs.modify k fun z => { z with re := v }

/-- Replace the imaginary part of entry `k`. -/
def setIm (zs : List C) (k : Nat) (v : Real32) : List C := zs.modify k fun z => { z with im := v }

/-- `CfgWrite` (10_state.md R50): the state element named there takes the value. It is called only on writable
registers; on the others it changes nothing. -/
def cfgWrite (r : CfgReg) (v : Word) (s : State) : State :=
  match r with
  | .cfgOsf => { s with sys := { s.sys with osf := v } }
  | .cfgNsym => { s with sys := { s.sys with nsym := v } }
  | .cfgOringCap => { s with sys := { s.sys with oringCap := v } }
  | .cfgGainmode => { s with sys := { s.sys with gainmode := v } }
  | .garZeta => { s with sys := { s.sys with garZeta := v } }
  | .garBn => { s with sys := { s.sys with garBn := v } }
  | .garKd => { s with sys := { s.sys with garKd := v } }
  | .garKp => { s with gar := { s.gar with kp := v } }
  | .garKi => { s with gar := { s.gar with ki := v } }
  | .cfrZeta => { s with sys := { s.sys with cfrZeta := v } }
  | .cfrBn => { s with sys := { s.sys with cfrBn := v } }
  | .cfrKd => { s with sys := { s.sys with cfrKd := v } }
  | .cfrKp => { s with cfr := { s.cfr with kp := v } }
  | .cfrKi => { s with cfr := { s.cfr with ki := v } }
  | .cfrActive => { s with cfr := { s.cfr with active := v == 1#32 } }
  | .frmAlpha => { s with frm := { s.frm with alpha := v } }
  | .frmTrigger => { s with frm := { s.frm with trigger := v } }
  | .refSofRe k => { s with frm := { s.frm with refSof := setRe s.frm.refSof k v } }
  | .refSofIm k => { s with frm := { s.frm with refSof := setIm s.frm.refSof k v } }
  | .refPlscRe k => { s with frm := { s.frm with refPlsc := setRe s.frm.refPlsc k v } }
  | .refPlscIm k => { s with frm := { s.frm with refPlsc := setIm s.frm.refPlsc k v } }
  | .synSymIdx => { s with syn := { symIdx := natOfInt32 v } }
  | .sysId | .sysPhase | .sysFaultLast | .sysFaultMask
  | .garMu | .garStrobe | .garSymRe | .garSymIm | .garOvf | .garUdf | .garFill
  | .garNco | .garLfState | .garLfOut | .garTedErr | .garSh
  | .farMu | .farB0 | .farB1 | .farB2 | .farB3
  | .cfrFreq | .cfrTheta | .cfrLfState | .cfrErr
  | .frmDelay | .frmFlag | .frmTri | .frmMaxIdx => s

/-- Is the value one the register takes at the write? Only the `rw` registers are checked here (45_system_ops.md
R242 lines 6 and 7); the word is read as a signed `Int32` (46_numerics.md R263). -/
def cfgValueOk (r : CfgReg) (v : Word) (s : State) : Bool :=
  match r with
  | .cfrActive => v == 0#32 || v == 1#32
  | .synSymIdx =>
    decide (0 ≤ v.toInt) && (if s.sys.phase = .run then decide (v.toInt < nSym s) else v == 0#32)
  | _ => true

/-- Is the register writable in this phase? (45_system_ops.md R242 lines 4 and 5.) -/
def cfgWritable (r : CfgReg) (p : Phase) : Bool :=
  match cfgAccess r with
  | .ro => false
  | .rwc => p == .config
  | .rw => true

end Sys2Proof.Machine
end

