-- ==== Sys2Proof/Machine/Flags.lean ====
section
/-! DEFINITION. The flags of 10_state.md R54, each computed in one place. -/

namespace Sys2Proof.Machine

/-- `gar.is_strobe` (41_gardner.md R138 line 2): will the NCO pass below zero during the next sample? -/
def strobeNext (nco w : Real32) : Bool := rLt nco w

/-- `frm.flag` (43_frame_sync.md R198): strict, 0 when either side is a NaN. -/
def packetPresent (maxCorr trigger : Real32) : Bool := rGt maxCorr trigger

/-- `UFW` (41_gardner.md R148 line 5): fewer symbols than N_SYM were available. -/
def underflowed (n : Nat) (ring : List C) : Bool := decide (ring.length < n)

/-- The number of one bits among the lowest `width` bits (00_scope.md R8). -/
def popcount (width v : Nat) : Nat := (List.range width).countP fun j => v.testBit j

end Sys2Proof.Machine
end

