-- ==== Sys2Proof/Machine/FrameSync.lean ====
section
/-! DEFINITION. FRM, the SOF/PLSC correlator, peak detector and realignment (43_frame_sync.md). -/

namespace Sys2Proof.Machine

/-- A running complex correlation in ascending order (43_frame_sync.md R192 lines 2 and 4): each product added to
the sum so far, the reference conjugated. -/
def correlate (acc : C) : List C → List C → C
  | h :: hs, r :: rs => correlate (cAdd acc (cMul h (cConj r))) hs rs
  | _, _ => acc

/-- `frm_corr()` (43_frame_sync.md R192): the oldest history entry against the first reference symbol. -/
def frmCorr (refSof refPlsc hist : List C) : Real32 :=
  let cS := correlate C0 (hist.take sofLen) refSof
  let cP := correlate C0 (hist.drop sofLen) refPlsc
  rMax (cAbs (cAdd cS cP)) (cAbs (cSub cS cP))

/-- The exponential smoothing of one position (43_frame_sync.md R194 line 2). -/
def smooth (alpha c m : Real32) : Real32 := rAdd (rMul (rSub rOne alpha) c) (rMul alpha m)

/-- The position loop (43_frame_sync.md R194): at each position correlate, smooth, then shift the symbol in. The
smoothed vector and the history after it. -/
def frmPositions (refSof refPlsc : List C) (alpha : Real32) :
    (hist : List C) → (cs : List Real32) → (xs : List C) → List Real32 × List C
  | hist, c :: cs, x :: xs =>
    let r := frmPositions refSof refPlsc alpha (shiftIn hist x) cs xs
    (smooth alpha c (frmCorr refSof refPlsc hist) :: r.1, r.2)
  | hist, cs, _ => (cs, hist)

/-- The peak search from position `i` on (43_frame_sync.md R195 lines 2, 3): a strictly greater entry moves the
peak. -/
def peakFrom : (i : Nat) → (best : Nat × Real32) → List Real32 → Nat × Real32
  | _, best, [] => best
  | i, best, c :: cs => peakFrom (i + 1) (if rGt c best.2 then (i, c) else best) cs

/-- The peak search (43_frame_sync.md R195): index and value. -/
def peak (cs : List Real32) : Nat × Real32 := peakFrom 1 (0, cs.headD rZero) cs.tail

/-- The frame delay (43_frame_sync.md R196), Euclidean `mod` of a possibly negative number. -/
def frameDelay (n maxIdx : Nat) : Nat := (((n : Int) + maxIdx - hdrLen) % (n : Int)).toNat

/-- The delay-line setting `L` (43_frame_sync.md R202 line 1). -/
def lineDelay (n delay : Nat) : Nat := (n - delay) % n

/-- The realigned block (43_frame_sync.md R202 lines 2 to 4). -/
def realigned (n delay : Nat) (dl xs : List C) : List C :=
  (List.range n).map fun i =>
    if lineDelay n delay ≤ i then xs.getD (i - lineDelay n delay) C0
    else dl.getD (n - lineDelay n delay + i) C0

/-- FRM after `FRM.SYNC` on the block `xs` of `n` symbols (43_frame_sync.md R200 lines 2 to 6). -/
def frmAfter (n : Nat) (xs : List C) (f : Frm) : Frm :=
  let r := frmPositions f.refSof f.refPlsc f.alpha f.hist f.cs xs
  let p := peak r.1
  { f with
    cs := r.1, hist := r.2, maxIdx := p.1, maxCorr := p.2
    delay := frameDelay n p.1, flag := packetPresent p.2 f.trigger, dl := xs }

/-- `FRM.RESET` lines 1 to 4 (43_frame_sync.md R206), for blocks of `n` symbols. Kept: `alpha`, `trigger` and the
references. -/
def frmCleared (n : Nat) (f : Frm) : Frm :=
  { f with
    hist := List.replicate hdrLen C0, dl := List.replicate n C0, cs := List.replicate n rZero
    delay := 0, maxIdx := 0, maxCorr := rZero, flag := false }

/-- `FRM.RESET` lines 1 to 4 on the block. -/
def frmReset (s : State) : State := { s with frm := frmCleared (nSym s) s.frm }

/-- `FRM.SYNC` (43_frame_sync.md R200): `Y`, then `DEL`, `FLG`, `TRI`. The realignment reads the delay line of the
previous block. -/
def execFrmSync (s : State) : Result :=
  runOp .frmSync (fun s =>
    let p := popBlock (nSym s) s
    let f := frmAfter (nSym s) p.1 s.frm
    let y := realigned (nSym s) f.delay s.frm.dl p.1
    let out := wordsOf y ++ [BitVec.ofNat 32 f.delay, boolWord f.flag, f.maxCorr]
    finish .ok (pushWords out { p.2 with frm := f })) s

/-- `FRM.RESET` (43_frame_sync.md R206). -/
def execFrmReset (s : State) : Result := runOp .frmReset (fun s => finish .ok (frmReset s)) s

end Sys2Proof.Machine
end

