-- ==== Sys2Proof/Machine/Trig.lean ====
section
/-! DEFINITION. `cos2pi` and `sin2pi`, the functions `cos(2πt)` and `sin(2πt)` on `R` (42_coarse_freq.md R171,
46_numerics.md R266): exact at the quarter points of [0, 1); for every other finite `t` a FREE VALUE within one unit in
the last place of the exact value (assumption logs 3 and 4).

The exact value is enclosed between two rationals: partial sums of the sine and cosine series, which lie
alternately below and above the function, at an argument enclosed with the first twenty decimals of pi. A finite `t`
is a whole multiple of 2^-149, so its part of a turn is computed exactly. -/

namespace Sys2Proof.Machine

/-- The exact value of a finite pattern. -/
def valueOf (x : Real32) : ℚ := (units x : ℚ) / 2 ^ 149

/-- Twenty decimals of pi, and one more in the last place: `piLow < π < piHigh`. -/
def piLow : ℚ := 314159265358979323846 / 10 ^ 20
def piHigh : ℚ := 314159265358979323847 / 10 ^ 20

/-- The first `n` terms of the series of the sine. -/
def sinSeries (x : ℚ) (n : Nat) : ℚ := ∑ k ∈ Finset.range n, (-1) ^ k * x ^ (2 * k + 1) / (2 * k + 1).factorial

/-- The first `n` terms of the series of the cosine. -/
def cosSeries (x : ℚ) (n : Nat) : ℚ := ∑ k ∈ Finset.range n, (-1) ^ k * x ^ (2 * k) / (2 * k).factorial

/-- Two rationals with an exact value between them. -/
structure Enclosure where
  low : ℚ
  high : ℚ
deriving DecidableEq, Repr

/-- An enclosure of `sin(π f / 2)` for `0 ≤ f ≤ 1`; above one half by the cosine of the complement, so that the
enclosure stays narrow beside the value. -/
def sinQuarter (f : ℚ) : Enclosure :=
  if f ≤ 1 / 2 then { low := sinSeries (piLow * f / 2) 16, high := sinSeries (piHigh * f / 2) 17 }
  else { low := cosSeries (piHigh * (1 - f) / 2) 16, high := cosSeries (piLow * (1 - f) / 2) 17 }

/-- One unit in the last place of a magnitude whose enclosure is `e`: the distance of the two binary32 values next
to it. -/
def ulpOf (e : Enclosure) : ℚ := 2 ^ ulpExp (e.low * 2 ^ 149).floor.toNat / 2 ^ 149

/-- Is the pattern certainly within one unit in the last place of the value of magnitude enclosed by `e` and of
sign `neg`? (46_numerics.md R266 (b).) -/
def withinUlp (neg : Bool) (e : Enclosure) (p : Real32) : Bool :=
  let v := if neg then -valueOf p else valueOf p
  isFinite p && decide (e.high - ulpOf e ≤ v ∧ v ≤ e.low + ulpOf e)

/-- The value an implementation proposes where it keeps the bound, else the nearest binary32 value. -/
def pickWithin (neg : Bool) (e : Enclosure) (proposed : Real32) : Real32 :=
  if withinUlp neg e proposed then proposed
  else roundRatio neg (e.low.num.toNat * 2 ^ 149) e.low.den

/-- The part of a turn of a finite `t`, in units of 2^-149: `t mod 1`, also for `t` outside [0, 1). -/
def turnUnits (t : Real32) : Nat := (units t % 2 ^ 149).toNat

/-- The quarter turn that `t mod 1` lies in, 0 to 3. -/
def quarterOf (t : Real32) : Nat := 4 * turnUnits t / 2 ^ 149

/-- The part of that quarter turn that `t mod 1` has gone through. -/
def withinQuarter (t : Real32) : ℚ := ((4 * turnUnits t % 2 ^ 149 : Nat) : ℚ) / 2 ^ 149

/-- `|cos(2πt)|`, and below its sign. At a multiple of a quarter turn the enclosure is the exact value. -/
def cosEnclosure (t : Real32) : Enclosure :=
  if quarterOf t % 2 = 0 then sinQuarter (1 - withinQuarter t) else sinQuarter (withinQuarter t)

def cosNegative (t : Real32) : Bool := quarterOf t == 1 || quarterOf t == 2

/-- `|sin(2πt)|`, and below its sign. -/
def sinEnclosure (t : Real32) : Enclosure :=
  if quarterOf t % 2 = 0 then sinQuarter (withinQuarter t) else sinQuarter (1 - withinQuarter t)

def sinNegative (t : Real32) : Bool := quarterOf t == 2 || quarterOf t == 3

/-- `cos2pi(t)` (46_numerics.md R266). -/
def cos2pi (t : Real32) : Real32 :=
  if isFinite t then
    if isZero t then rOne
    else if t = rQuarter then rZero
    else if t = rHalf then rNegOne
    else if t = rThreeQuarters then rZero
    else pickWithin (cosNegative t) (cosEnclosure t) (Config.cosBits t)
  else freeNaN .cos t t

/-- `sin2pi(t)` (46_numerics.md R266). -/
def sin2pi (t : Real32) : Real32 :=
  if isFinite t then
    if isZero t then rZero
    else if t = rQuarter then rOne
    else if t = rHalf then rZero
    else if t = rThreeQuarters then rNegOne
    else pickWithin (sinNegative t) (sinEnclosure t) (Config.sinBits t)
  else freeNaN .sin t t

end Sys2Proof.Machine
end

