-- ==== Sys2Proof/Machine/CoarseFreq.lean ====
section
/-! DEFINITION. CFR, the coarse-frequency decision-directed loop (42_coarse_freq.md). -/

namespace Sys2Proof.Machine

/-- `rot(theta)` (42_coarse_freq.md R171): the negated sine is the sign flip. -/
def rot (theta : Real32) : C := { re := cos2pi theta, im := rNeg (sin2pi theta) }

/-- The rotated sample of `cfr_rotate(x)` (42_coarse_freq.md R171 lines 1, 2). -/
def cfrRotated (c : Cfr) (x : C) : C := cMul x (rot c.theta)

/-- The phase advance of `cfr_rotate(x)` (42_coarse_freq.md R171 line 3). -/
def cfrAdvance (c : Cfr) : Cfr := { c with theta := rFrac (rAdd c.theta c.freq) }

/-- `n` samples through the rotator, in order (42_coarse_freq.md R174): the outputs and CFR after them. -/
def cfrRotateBlock : Cfr → List C → List C × Cfr
  | c, [] => ([], c)
  | c, x :: xs =>
    let r := cfrRotateBlock (cfrAdvance c) xs
    (cfrRotated c x :: r.1, r.2)

/-- `cfr_update(p)` (42_coarse_freq.md R176): with the gate closed nothing changes. -/
def cfrUpdate (p : C) (c : Cfr) : Cfr :=
  if c.active then
    let err := (cMul p (cConj c.p2)).im
    let st := rAdd c.lfState (rMul c.ki err)
    { c with err := err, lfState := st, freq := rAdd (rMul c.kp err) st, p2 := c.p1, p1 := p }
  else c

/-- `CFR.RESET` lines 1 to 4 (42_coarse_freq.md R180). Kept: the gate and the gains. -/
def cfrCleared (c : Cfr) : Cfr :=
  { c with p1 := C0, p2 := C0, err := rZero, lfState := rZero, freq := rZero, theta := rZero }

/-- `CFR.RESET` lines 1 to 4 on the block. -/
def cfrReset (s : State) : State := { s with cfr := cfrCleared s.cfr }

/-- `CFR.STEP` (42_coarse_freq.md R172): never gated. -/
def execCfrStep (s : State) : Result :=
  runOp .cfrStep (fun s =>
    let p := popC s
    finish .ok (pushWords (wordsOf [cfrRotated p.2.cfr p.1]) { p.2 with cfr := cfrAdvance p.2.cfr })) s

/-- `CFR.SYNC` (42_coarse_freq.md R174). -/
def execCfrSync (s : State) : Result :=
  runOp .cfrSync (fun s =>
    let p := popBlock (nSmp s) s
    let r := cfrRotateBlock p.2.cfr p.1
    finish .ok (pushWords (wordsOf r.1) { p.2 with cfr := r.2 })) s

/-- `CFR.UPD` (42_coarse_freq.md R176): the operands are popped also when the gate is closed. -/
def execCfrUpd (s : State) : Result :=
  runOp .cfrUpd (fun s =>
    let p := popC s
    finish .ok { p.2 with cfr := cfrUpdate p.1 p.2.cfr }) s

/-- `CFR.RESET` (42_coarse_freq.md R180). -/
def execCfrReset (s : State) : Result := runOp .cfrReset (fun s => finish .ok (cfrReset s)) s

end Sys2Proof.Machine
end

