-- ==== Sys2Proof/Machine/Farrow.lean ====
section
/-! DEFINITION. FAR, the Farrow fractional-delay interpolator (40_farrow.md). -/

namespace Sys2Proof.Machine

/-- `farrow_coef(mu)` (40_farrow.md R111), in exactly its order. -/
def farrowCoef (mu : Real32) : FarCoef :=
  let m2 := rMul mu mu
  let hm := rMul rHalf mu
  let hm2 := rMul rHalf m2
  let b0 := rSub hm2 hm
  let b1 := rSub (rSub rOne hm) hm2
  let b2 := rSub (rAdd mu hm) hm2
  { b0 := b0, b1 := b1, b2 := b2, b3 := b0 }

/-- `far_setmu` (40_farrow.md R112 lines 2 and 3). -/
def farSetMu (mu : Real32) (f : Far) : Far := { f with mu := mu, b := farrowCoef mu }

/-- `shift_in(far.h, x)` (40_farrow.md R114 line 2). -/
def farShift (x : C) (f : Far) : Far :=
  { f with h := { h0 := f.h.h1, h1 := f.h.h2, h2 := f.h.h3, h3 := x } }

/-- `farrow_dot()` (40_farrow.md R115): `b0` with the oldest sample, `b3` with the newest. -/
def farDot (f : Far) : C :=
  let t0 := cScale f.b.b0 f.h.h0
  let t1 := cScale f.b.b1 f.h.h1
  let t2 := cScale f.b.b2 f.h.h2
  let t3 := cScale f.b.b3 f.h.h3
  cAdd (cAdd (cAdd t0 t1) t2) t3

/-- `FAR.RESET` lines 1 to 3 (40_farrow.md R116). -/
def farReset (s : State) : State := { s with far := Far.reset }

/-- `FAR.SETMU` (40_farrow.md R112). -/
def execFarSetmu (s : State) : Result :=
  runOp .farSetmu (fun s =>
    let p := popWord s
    finish .ok { p.2 with far := farSetMu p.1 p.2.far }) s

/-- `FAR.STEP` (40_farrow.md R114). -/
def execFarStep (s : State) : Result :=
  runOp .farStep (fun s =>
    let p := popC s
    let f := farShift p.1 p.2.far
    finish .ok (pushWords (wordsOf [farDot f]) { p.2 with far := f })) s

/-- `FAR.RESET` (40_farrow.md R116). -/
def execFarReset (s : State) : Result := runOp .farReset (fun s => finish .ok (farReset s)) s

end Sys2Proof.Machine
end

