-- ==== Sys2Proof/Machine/Gardner.lean ====
section
/-! DEFINITION. GAR, the Gardner symbol-timing recovery loop (41_gardner.md). -/

namespace Sys2Proof.Machine

/-- `oring_push(z)` (41_gardner.md R146): a push to a full ring discards the oldest symbol and counts. -/
def oringPush (cap : Nat) (z : C) (g : Gar) : Gar :=
  if g.oring.length = cap then { g with oring := g.oring.tail ++ [z], ovfCnt := g.ovfCnt + 1 }
  else { g with oring := g.oring ++ [z] }

/-- The strobe history after one sample (41_gardner.md R132). -/
def strobeHistory (width : Nat) (strobe : Bool) (sh : Nat) : Nat :=
  ((sh <<< 1) % 2 ^ width) ||| (if strobe then 1 else 0)

/-- The Gardner timing error (41_gardner.md R133 line 5). -/
def tedError (prev mid y : C) : Real32 :=
  rAdd (rMul mid.re (rSub prev.re y.re)) (rMul mid.im (rSub prev.im y.im))

/-- `ted_update(y, s)` (41_gardner.md R132, R133, R134): the history, then the error from the window as it stands,
then the window by the class of the history. -/
def tedUpdate (width : Nat) (y : C) (strobe : Bool) (g : Gar) : Gar :=
  let sh := strobeHistory width strobe g.sh
  let err :=
    if sh = 1 then tedError (g.ted.getD (width - 1) C0) (g.ted.getD (width - width / 2 - 1) C0) y else rZero
  let ted :=
    match popcount width sh with
    | 0 => g.ted
    | 1 => shiftInFront g.ted y
    | _ => shiftInFront (shiftInFront g.ted C0) y
  { g with sh := sh, tedErr := err, ted := ted }

/-- `loop_filter()` (41_gardner.md R136). -/
def loopFilter (g : Gar) : Gar :=
  let st := rAdd g.lfState (rMul g.ki g.tedErr)
  { g with lfState := st, lfOut := rAdd (rMul g.kp g.tedErr) st }

/-- `interp_control()` (41_gardner.md R138), without line 5. -/
def interpControl (inv : Real32) (g : Gar) : Gar :=
  let w := rAdd g.lfOut inv
  let strobe := strobeNext g.nco w
  { g with
    isStrobe := strobe
    mu := if strobe then rDiv g.nco w else g.mu
    nco := rFrac (rSub g.nco w) }

/-- GAR after one `gar_step` whose interpolated sample is `y` (41_gardner.md R131 lines 2 to 7). -/
def garAfter (s : State) (y : C) : Gar :=
  let g := { s.gar with lastSym := y }
  let g := if s.gar.isStrobe then oringPush (oringCap s) y g else g
  interpControl (invOsf s) (loopFilter (tedUpdate (osf s) y s.gar.isStrobe g))

/-- What `gar_step(x)` returns (41_gardner.md R131 line 8), beside the state it leaves. -/
structure GarStep where
  state : State
  y : C
  strobe : Bool

/-- `gar_step(x)` (41_gardner.md R131): interpolate with the coefficients as they stand, then the loop; a strobe
decided for the next sample sets the coefficients (R138 line 5). -/
def garStep (s : State) (x : C) : GarStep :=
  let f := farShift x s.far
  let y := farDot f
  let g := garAfter s y
  { state := { s with far := if g.isStrobe then farSetMu g.mu f else f, gar := g }
    y := y
    strobe := s.gar.isStrobe }

/-- Draining exactly `n` symbols (41_gardner.md R148 lines 1 to 4): what is available, oldest first, then zeros. -/
def drained (n : Nat) (ring : List C) : List C := ring.take n ++ List.replicate (n - ring.length) C0

/-- GAR after the drain (41_gardner.md R148 lines 3 and 6). -/
def garDrain (n : Nat) (g : Gar) : Gar :=
  { g with oring := g.oring.drop n, udfCnt := if underflowed n g.oring then g.udfCnt + 1 else g.udfCnt }

/-- The status of an operation that drains (41_gardner.md R148 line 8): an underflow completes with
`ProcessingAborted`. -/
def drainStatus (n : Nat) (g : Gar) : Status := if underflowed n g.oring then .processingAborted else .ok

/-- `GAR.RESET` lines 1 to 5 (41_gardner.md R150), for a window of `width` entries. Kept: the gains and both
counters. -/
def garCleared (width : Nat) (g : Gar) : Gar :=
  { g with
    lfState := rZero, lfOut := rZero, tedErr := rZero, nco := rZero
    ted := List.replicate width C0, oring := []
    isStrobe := false, sh := 0, mu := rZero, lastSym := C0 }

/-- `GAR.RESET` lines 1 to 6 (41_gardner.md R150). -/
def garReset (s : State) : State := farReset { s with gar := garCleared (osf s) s.gar }

/-- `GAR.STEP` (41_gardner.md R140). -/
def execGarStep (s : State) : Result :=
  runOp .garStep (fun s =>
    let p := popC s
    let r := garStep p.2 p.1
    finish .ok (pushWords (wordsOf [r.y] ++ [boolWord r.strobe]) r.state)) s

/-- `GAR.SYNC` (41_gardner.md R144). -/
def execGarSync (s : State) : Result :=
  runOp .garSync (fun s =>
    let p := popBlock (nSmp s) s
    finish .ok (p.1.foldl (fun t x => (garStep t x).state) p.2)) s

/-- `GAR.EXTRACT` (41_gardner.md R148). -/
def execGarExtract (s : State) : Result :=
  runOp .garExtract (fun s =>
    let out := wordsOf (drained (nSym s) s.gar.oring) ++ [boolWord (underflowed (nSym s) s.gar.oring)]
    finish (drainStatus (nSym s) s.gar) (pushWords out { s with gar := garDrain (nSym s) s.gar })) s

/-- `GAR.RESET` (41_gardner.md R150). -/
def execGarReset (s : State) : Result := runOp .garReset (fun s => finish .ok (garReset s)) s

end Sys2Proof.Machine
end

