-- ==== Sys2Proof/Machine/FusedStep.lean ====
section
/-! DEFINITION. SYN, the fused synchroniser step (44_fused_step.md). -/

namespace Sys2Proof.Machine

/-- `pilot_zone(i)` (44_fused_step.md R224). -/
def pilotZone (i : Nat) : Bool := decide (pilFirst ≤ i ∧ pilLo ≤ i % pilPeriod ∧ i % pilPeriod < pilHi)

/-- What follows a strobe (44_fused_step.md R222 lines 6 to 9): the conditional update with the symbol just
produced, and the frame index. -/
def synStrobe (y : C) (s : State) : State :=
  { s with
    cfr := if pilotZone s.syn.symIdx then cfrUpdate y s.cfr else s.cfr
    syn := { symIdx := (s.syn.symIdx + 1) % nSym s } }

/-- One sample of `SYN.SYNC` (44_fused_step.md R222 lines 3 to 9): rotate, matched filter, Gardner step, update. -/
def synSample (s : State) (x : C) : State :=
  let m := mfStep s.mf (cfrRotated s.cfr x)
  let r := garStep { s with cfr := cfrAdvance s.cfr, mf := m.1 } m.2
  if r.strobe then synStrobe r.y r.state else r.state

/-- `SYN.RESET` lines 1 to 4 (44_fused_step.md R226). -/
def synReset (s : State) : State :=
  let t := garReset (cfrReset s)
  { t with mf := mfReset t.mf, syn := { symIdx := 0 } }

/-- `SYN.SYNC` (44_fused_step.md R222): the block sample by sample, then the drain; `Y`, `MU`, `UFW`. -/
def execSynSync (s : State) : Result :=
  runOp .synSync (fun s =>
    let p := popBlock (nSmp s) s
    let t := p.1.foldl synSample p.2
    let out := wordsOf (drained (nSym s) t.gar.oring) ++ [t.gar.mu, boolWord (underflowed (nSym s) t.gar.oring)]
    finish (drainStatus (nSym s) t.gar) (pushWords out { t with gar := garDrain (nSym s) t.gar })) s

/-- `SYN.RESET` (44_fused_step.md R226). -/
def execSynReset (s : State) : Result := runOp .synReset (fun s => finish .ok (synReset s)) s

end Sys2Proof.Machine
end

