-- ==== Sys2Proof/Machine/System.lean ====
section
/-! DEFINITION. SYS: construction, configuration access, global reset, loop design (45_system_ops.md). -/

namespace Sys2Proof.Machine

/-- `sys.gainmode` bit 0: the Gardner gains are the host's (10_state.md R42). -/
def garDirect (y : Sys) : Bool := y.gainmode.getLsbD 0

/-- `sys.gainmode` bit 1: the coarse-loop gains are the host's (10_state.md R42). -/
def cfrDirect (y : Sys) : Bool := y.gainmode.getLsbD 1

/-- The design parameters `lf_design` divides by (45_system_ops.md R237, last two clauses). -/
def designOk (zeta kd : Real32) : Bool := rGt zeta rZero && !isNaN kd && !isZero kd

/-- `valid_config()` (45_system_ops.md R237), one clause a line. -/
def validConfig (y : Sys) : Bool :=
  decide (2 ≤ y.osf.toInt ∧ y.osf.toInt ≤ 32)
  && decide (1 ≤ y.nsym.toInt)
  && decide (y.nsym.toInt ≤ y.oringCap.toInt)
  && decide (0 ≤ y.gainmode.toInt ∧ y.gainmode.toInt ≤ 3)
  && (garDirect y || designOk y.garZeta y.garKd)
  && (cfrDirect y || designOk y.cfrZeta y.cfrKd)

/-- The two gains of a loop. -/
structure Gains where
  kp : Real32
  ki : Real32
deriving DecidableEq, Repr

/-- `lf_design` (45_system_ops.md R238), the default instantiation, in its order (assumption log 7). -/
def lfDesign (zeta bn kd : Real32) (n : Nat) (k0 : Real32) : Gains :=
  let th := rDiv (rDiv bn (toR n)) (rAdd zeta (rDiv rQuarter zeta))
  let d := rMul (rMul (rAdd (rAdd rOne (rMul (rMul rTwo zeta) th)) (rMul th th)) k0) kd
  { kp := rDiv (rMul (rMul rFour zeta) th) d
    ki := rDiv (rMul rFour (rMul th th)) d }

/-- The Gardner gains `SYS.BUILD` arrives at (45_system_ops.md R236 lines 4 to 6). -/
def garGains (s : State) : Gains :=
  if garDirect s.sys then { kp := s.gar.kp, ki := s.gar.ki }
  else lfDesign s.sys.garZeta s.sys.garBn s.sys.garKd (osf s) rNegOne

/-- The coarse-loop gains `SYS.BUILD` arrives at (45_system_ops.md R236 lines 4, 7, 8). -/
def cfrGains (s : State) : Gains :=
  if cfrDirect s.sys then { kp := s.cfr.kp, ki := s.cfr.ki }
  else lfDesign s.sys.cfrZeta s.sys.cfrBn s.sys.cfrKd (osf s) rOne

/-- Neither gain is a NaN or an infinity (45_system_ops.md R236 line 9). -/
def gainsFinite (g : Gains) : Bool := isFinite g.kp && isFinite g.ki

/-- `SYS.RESET` lines 1 to 5 (45_system_ops.md R240). With OSF and N_SYM known it also gives `gar.ted`, `frm.cs`
and `frm.dl` their lengths (R236 line 14). -/
def sysReset (s : State) : State :=
  let t := frmReset (garReset (cfrReset s))
  { t with mf := mfReset t.mf, syn := { symIdx := 0 } }

/-- Lines 12 to 15 of `SYS.BUILD` (45_system_ops.md R236). -/
def built (s : State) : State :=
  let t := sysReset
    { s with
      gar := { s.gar with kp := (garGains s).kp, ki := (garGains s).ki }
      cfr := { s.cfr with kp := (cfrGains s).kp, ki := (cfrGains s).ki } }
  { t with sys := { t.sys with phase := .run } }

/-- Both tests of `SYS.BUILD` (45_system_ops.md R236 lines 1 and 9). -/
def buildOk (s : State) : Bool := validConfig s.sys && gainsFinite (garGains s) && gainsFinite (cfrGains s)

/-- `SYS.BUILD` (45_system_ops.md R236). -/
def execSysBuild (s : State) : Result :=
  runOp .sysBuild (fun s => if buildOk s then finish .ok (built s) else takeFault .configError s) s

/-- `SYS.RESET` (45_system_ops.md R240). -/
def execSysReset (s : State) : Result := runOp .sysReset (fun s => finish .ok (sysReset s)) s

/-- Lines 3 to 8 of `CFG.WR` with their status (45_system_ops.md R242), the operand already popped. -/
def writeReg (a : Nat) (v : Word) (s : State) : State :=
  match cfgRegAt a with
  | none => takeFault .badAccess s
  | some r =>
    if cfgWritable r s.sys.phase && cfgValueOk r v s then finish .ok (cfgWrite r v s)
    else takeFault .badAccess s

/-- `CFG.WR` (45_system_ops.md R242). -/
def execCfgWr (a : Nat) (s : State) : Result :=
  runOp (.cfgWr a) (fun s => writeReg a (popWord s).1 (popWord s).2) s

/-- `CFG.RD` (45_system_ops.md R244). -/
def execCfgRd (a : Nat) (s : State) : Result :=
  runOp (.cfgRd a) (fun s =>
    match cfgRegAt a with
    | none => takeFault .badAccess s
    | some r => finish .ok (pushWords [cfgRead r s] s)) s

end Sys2Proof.Machine
end

