-- ==== Sys2Proof/Machine/Dispatch.lean ====
section
/-! DEFINITION. The meaning of every operation, one arm per constructor (30_encoding.md R92). -/

namespace Sys2Proof.Machine

def exec (i : Instr) (s : State) : Host.Outcome State Fault Refusal :=
  match i with
  | .sysBuild => Sys2Proof.Machine.execSysBuild s
  | .sysReset => Sys2Proof.Machine.execSysReset s
  | .cfgWr a => Sys2Proof.Machine.execCfgWr a s
  | .cfgRd a => Sys2Proof.Machine.execCfgRd a s
  | .farStep => Sys2Proof.Machine.execFarStep s
  | .farSetmu => Sys2Proof.Machine.execFarSetmu s
  | .farReset => Sys2Proof.Machine.execFarReset s
  | .garStep => Sys2Proof.Machine.execGarStep s
  | .garSync => Sys2Proof.Machine.execGarSync s
  | .garExtract => Sys2Proof.Machine.execGarExtract s
  | .garReset => Sys2Proof.Machine.execGarReset s
  | .cfrStep => Sys2Proof.Machine.execCfrStep s
  | .cfrSync => Sys2Proof.Machine.execCfrSync s
  | .cfrUpd => Sys2Proof.Machine.execCfrUpd s
  | .cfrReset => Sys2Proof.Machine.execCfrReset s
  | .frmSync => Sys2Proof.Machine.execFrmSync s
  | .frmReset => Sys2Proof.Machine.execFrmReset s
  | .synSync => Sys2Proof.Machine.execSynSync s
  | .synReset => Sys2Proof.Machine.execSynReset s

end Sys2Proof.Machine
end

