-- ==== Sys2Proof/Machine/Step.lean ====
section
/-! DEFINITION. One step of the machine: the `RST` event when it is raised, else the next command word, decoded and
executed to completion (20_memory.md R67, R74; 30_encoding.md R93; 70_reset_and_hazards.md R300). -/

namespace Sys2Proof.Machine

/-- One step. A word that selects no operation raises `Unimplemented` in every phase (30_encoding.md R93). -/
def step (s : State) : Host.Outcome State Fault Refusal :=
  if s.rst then .next (hardwareReset s)
  else
    match takeCommand s with
    | none => .fault .noCommand
    | some (cw, t) =>
      match decode cw with
      | .error _ => .next (raiseUnimplemented t)
      | .ok i => exec i t

/-- The state with a command placed where `step` takes its next one: at the front of `CMD`, with `RST` not raised.
A permitted operation starts only when its operand words stand on `DIN` (20_memory.md R66), so those that are
missing are supplied, as zeros. Assumption log 13. -/
def State.withFetchWord (s : State) (nbits w : Nat) : State :=
  { s with
    rst := false
    cmd := BitVec.ofNat 32 (w % 2 ^ nbits) :: s.cmd
    din := match decodeTableWord nbits w with
      | none => s.din
      | some i =>
        if permittedIn i s.sys.phase then s.din ++ List.replicate (dinWords s i - s.din.length) 0#32 else s.din }

end Sys2Proof.Machine
end

