-- ==== Sys2Proof/Safety.lean ====
section
/-! DEFINITION. The terms claims use: the shape every state of a run has, what the fault registers say about each
other, and one operation issued many times. -/

namespace Sys2Proof.Machine

/-- The fixed windows (10_state.md R34): 89 history entries, 25 and 64 reference symbols. -/
structure FixedShape (s : State) : Prop where
  hist : s.frm.hist.length = hdrLen
  refSof : s.frm.refSof.length = sofLen
  refPlsc : s.frm.refPlsc.length = plscLen

/-- The block as constructed, in phase RUN: the configuration passed `SYS.BUILD` (45_system_ops.md R236, R237), the
windows have their lengths (R236 line 14), and the bounds of 10_state.md R25, R34, R38 hold. -/
structure RunShape (s : State) : Prop where
  config : validConfig s.sys = true
  garGains : isFinite s.gar.kp = true ∧ isFinite s.gar.ki = true
  cfrGains : isFinite s.cfr.kp = true ∧ isFinite s.cfr.ki = true
  ted : s.gar.ted.length = osf s
  sh : s.gar.sh < 2 ^ osf s
  ring : s.gar.oring.length ≤ oringCap s
  cs : s.frm.cs.length = nSym s
  dl : s.frm.dl.length = nSym s
  delay : s.frm.delay < nSym s
  maxIdx : s.frm.maxIdx < nSym s
  symIdx : s.syn.symIdx < nSym s

/-- The block not constructed, in phases CONFIG and FAILED: no operation has touched the datapath (60_exceptions.md
R292), so it stands as hardware reset left it (70_reset_and_hazards.md R301); only the registers that `CFG.WR`
writes may differ. -/
structure IdleShape (s : State) : Prop where
  far : s.far = Far.reset
  gar : s.gar = { Gar.reset with kp := s.gar.kp, ki := s.gar.ki }
  cfr : s.cfr = { Cfr.reset with active := s.cfr.active, kp := s.cfr.kp, ki := s.cfr.ki }
  frm : s.frm = { Frm.reset with
    alpha := s.frm.alpha, trigger := s.frm.trigger, refSof := s.frm.refSof, refPlsc := s.frm.refPlsc }
  syn : s.syn = Syn.reset

/-- The shape of every state a run reaches. -/
structure Shaped (s : State) : Prop where
  fixed : FixedShape s
  run : s.sys.phase = .run → RunShape s
  idle : s.sys.phase ≠ .run → IdleShape s

/-- What the fault registers say about each other and about the phase (60_exceptions.md R281, R290): bit 0 of the mask
is clear, the last code is in the mask, no code means an empty mask, and the phase is FAILED exactly when code 1 was
pushed. -/
structure FaultsAgree (y : Sys) : Prop where
  bitZero : y.faultMask.getLsbD 0 = false
  last : y.faultLast ≠ .ok → y.faultMask.getLsbD (statusCode y.faultLast) = true
  clean : y.faultLast = .ok → y.faultMask = 0#5
  failed : y.phase = .failed ↔ y.faultMask.getLsbD 1 = true

/-- One operation issued `n` times in a row, each to completion. -/
def execMany (i : Instr) : Nat → State → Result
  | 0, s => .next s
  | n + 1, s =>
    match exec i s with
    | .next t => execMany i n t
    | .fault f => .fault f
    | .refused r => .refused r

/-- The registers `SYS.BUILD` freezes (20_memory.md R77 (b)), seen from the host: in phase RUN none of them
changes. -/
def frozen (s : State) : List Word :=
  [s.sys.osf, s.sys.nsym, s.sys.oringCap, s.sys.gainmode, s.sys.garZeta, s.sys.garBn, s.sys.garKd, s.sys.cfrZeta,
    s.sys.cfrBn, s.sys.cfrKd, s.gar.kp, s.gar.ki, s.cfr.kp, s.cfr.ki, s.frm.alpha, s.frm.trigger]

end Sys2Proof.Machine
end

