-- ==== Sys2Proof/Certificates/Slice0/Obligations.lean ====
section
/-! DEFINITION. The statements for the provers. Each docstring names the rule of spec/ it formalises. -/

open Sys2Proof Sys2Proof.Machine

/-! Encoding -/

/-- 30_encoding.md R90 to R92: decoding the word of a well-formed operation gives the operation back, for every
operation and every 16-bit address. -/
def Obligations.DecodeOfEncode : Prop := ∀ i : Instr, wellFormed i = true → decode (encode i) = .ok i

/-- 30_encoding.md R93 step 1 ("the rows are disjoint, so at most one matches"): a word decodes to an operation only
if it is that operation's own word, and the operation is well formed. -/
def Obligations.EncodeOfDecode : Prop :=
  ∀ (cw : Word) (i : Instr), decode cw = .ok i → wellFormed i = true ∧ encode i = cw

/-- 30_encoding.md R92, R95: words of each unit written out from the table, and the refused words of V-SYS-2. -/
def Obligations.WordsOfTheTable : Prop :=
  decode 0x01000000#32 = .ok .sysBuild ∧ decode 0x05000208#32 = .ok (.cfgWr 0x208) ∧
  decode 0x0600FFFF#32 = .ok (.cfgRd 0xFFFF) ∧ decode 0x13000000#32 = .ok .farSetmu ∧
  decode 0x23000000#32 = .ok .garExtract ∧ decode 0x33000000#32 = .ok .cfrUpd ∧
  decode 0x42000000#32 = .ok .frmSync ∧ decode 0x54000000#32 = .ok .synReset ∧
  decode 0x00000000#32 = .error .unassignedFn ∧ decode 0x60000000#32 = .error .unassignedUnit ∧
  decode 0x02000000#32 = .error .unassignedFn ∧ decode 0x11000001#32 = .error .nonzeroImm ∧
  decode 0x11010000#32 = .error .nonzeroZero ∧ decode 0x05010008#32 = .error .nonzeroZero

/-! The step -/

/-- 30_encoding.md R93, 20_memory.md R74: when the next command word decodes to an operation, the step takes the word
off `CMD` and is that operation. -/
def Obligations.StepRunsDecodedWord : Prop :=
  ∀ (s : State) (cw : Word) (rest : List Word) (i : Instr),
    s.rst = false → s.cmd = cw :: rest → decode cw = .ok i → wellFormed i = true →
    step s = exec i { s with cmd := rest }

/-- 30_encoding.md R95: a word that matches no row of R92, in any phase, changes no datapath state, pops nothing,
pushes nothing on `DOUT`, sets the fault registers and pushes status 3. -/
def Obligations.UnmatchedWordIsUnimplemented : Prop :=
  ∀ (s : State) (cw : Word) (rest : List Word),
    s.rst = false → s.cmd = cw :: rest →
    (∀ i : Instr, cw &&& opcodeMask i ≠ BitVec.ofNat 32 (opcodeOf i)) →
    step s = .next { s with
      cmd := rest
      sys := { s.sys with faultLast := .unimplemented, faultMask := s.sys.faultMask ||| 0b01000#5 }
      stat := s.stat ++ [.unimplemented] }

/-- 70_reset_and_hazards.md R300: `RST` puts every element at its HR value, empties `DIN` and discards `DOUT` and
`STAT`, and does not touch the matched filter. That command words stay and that the event is taken before any command
is the model's choice (assumption log 12). -/
def Obligations.ResetEvent : Prop :=
  ∀ s : State, s.rst = true → step s = .next { State.reset with cmd := s.cmd, mf := s.mf }

/-- 70_reset_and_hazards.md R301, read element by element (the spec derives the rule from the reset columns of
10_state.md); that `DIN`, `DOUT` and `STAT` are empty is R300. -/
def Obligations.HardwareResetState : Prop :=
  let s := State.reset
  s.sys.phase = .config ∧ s.sys.faultLast = .ok ∧ s.sys.faultMask = 0#5 ∧
  s.sys.osf = 0#32 ∧ s.sys.nsym = 0#32 ∧ s.sys.oringCap = 0#32 ∧ s.sys.gainmode = 0#32 ∧
  s.sys.garZeta = rZero ∧ s.sys.garBn = rZero ∧ s.sys.garKd = rZero ∧
  s.sys.cfrZeta = rZero ∧ s.sys.cfrBn = rZero ∧ s.sys.cfrKd = rZero ∧
  s.gar.kp = rZero ∧ s.gar.ki = rZero ∧ s.cfr.kp = rZero ∧ s.cfr.ki = rZero ∧
  s.frm.alpha = rZero ∧ s.frm.trigger = rZero ∧
  s.frm.refSof = List.replicate 25 C0 ∧ s.frm.refPlsc = List.replicate 64 C0 ∧ s.cfr.active = false ∧
  s.far.h = { h0 := C0, h1 := C0, h2 := C0, h3 := C0 } ∧
  s.far.b = { b0 := rZero, b1 := rOne, b2 := rZero, b3 := rZero } ∧ s.far.mu = rZero ∧
  s.gar.isStrobe = false ∧ s.gar.sh = 0 ∧ s.gar.ted = [] ∧ s.gar.tedErr = rZero ∧ s.gar.lfState = rZero ∧
  s.gar.lfOut = rZero ∧ s.gar.nco = rZero ∧ s.gar.mu = rZero ∧ s.gar.lastSym = C0 ∧ s.gar.oring = [] ∧
  s.gar.ovfCnt = 0 ∧ s.gar.udfCnt = 0 ∧
  s.cfr.theta = rZero ∧ s.cfr.freq = rZero ∧ s.cfr.lfState = rZero ∧ s.cfr.err = rZero ∧
  s.cfr.p1 = C0 ∧ s.cfr.p2 = C0 ∧
  s.frm.hist = List.replicate 89 C0 ∧ s.frm.cs = [] ∧ s.frm.dl = [] ∧ s.frm.delay = 0 ∧ s.frm.maxIdx = 0 ∧
  s.frm.maxCorr = rZero ∧ s.frm.flag = false ∧ s.syn.symIdx = 0 ∧
  s.din = [] ∧ s.dout = [] ∧ s.stat = []

/-- 70_reset_and_hazards.md R300 ("waits for a command word"): with no command word and no `RST` there is no step. That
"no step" is the outcome `fault` is the model's choice (assumption log 10). -/
def Obligations.WaitsForACommand : Prop :=
  ∀ s : State, s.rst = false → s.cmd = [] → step s = .fault .noCommand

/-- 20_memory.md R66: an operation permitted in the phase starts exactly when `DIN` holds all the words it pops, and
the words beyond those stay. That "no step" is the outcome `fault` is the model's choice (assumption log 10). -/
def Obligations.OperationWaitsForItsWords : Prop :=
  ∀ (i : Instr) (s : State), permittedIn i s.sys.phase = true →
    (s.din.length < dinWords s i → exec i s = .fault .waitingForDin) ∧
    (dinWords s i ≤ s.din.length → ∃ t, exec i s = .next t ∧ t.din = s.din.drop (dinWords s i))

/-! Faults and phases -/

/-- 60_exceptions.md R280, R290: every step without `RST` pushes exactly one status; a non-zero one is recorded in the
fault registers, code 1 also moves the phase to FAILED, and status 0 leaves the fault registers. -/
def Obligations.StatusAndFaultRegisters : Prop :=
  ∀ s t : State, s.rst = false → step s = .next t →
    ∃ c : Status, t.stat = s.stat ++ [c] ∧
      match c with
      | .ok => t.sys.faultLast = s.sys.faultLast ∧ t.sys.faultMask = s.sys.faultMask
      | .configError => t.sys = { s.sys with
          faultLast := .configError, faultMask := s.sys.faultMask ||| 0b00010#5, phase := .failed }
      | .processingAborted => t.sys = { s.sys with
          faultLast := .processingAborted, faultMask := s.sys.faultMask ||| 0b00100#5 }
      | .unimplemented => t.sys = { s.sys with
          faultLast := .unimplemented, faultMask := s.sys.faultMask ||| 0b01000#5 }
      | .badAccess => t.sys = { s.sys with
          faultLast := .badAccess, faultMask := s.sys.faultMask ||| 0b10000#5 }

/-- 60_exceptions.md R282, R290: a refusing fault has no effect on datapath state, pops no `DIN` word and pushes no `DOUT`
word; of SYS it changes `fault_last`, `fault_mask` and, for `ConfigError`, the phase; only a `CFG.WR` that decoded and was permitted in the phase has popped its operand. -/
def Obligations.RefusingFaultChangesNothingElse : Prop :=
  ∀ (s t : State) (c : Status), s.rst = false → step s = .next t → t.stat = s.stat ++ [c] →
    c = .configError ∨ c = .unimplemented ∨ c = .badAccess →
    ∃ cw rest, s.cmd = cw :: rest ∧
      t = { s with
        cmd := rest
        din := t.din
        sys := { s.sys with
          faultLast := c
          faultMask := s.sys.faultMask ||| (1#5 <<< statusCode c)
          phase := if c = .configError then .failed else s.sys.phase }
        stat := s.stat ++ [c] } ∧
      ((∃ a, decode cw = .ok (.cfgWr a)) → s.sys.phase ≠ .failed → ∃ v, s.din = v :: t.din) ∧
      ((∀ a, decode cw ≠ .ok (.cfgWr a)) ∨ s.sys.phase = .failed → t.din = s.din)

/-- 60_exceptions.md R292: outside the phases the table permits, every operation raises `BadAccess` and nothing else
happens. -/
def Obligations.PhaseTable : Prop :=
  ∀ (i : Instr) (s : State),
    (s.sys.phase = .failed ∧ (∀ a, i ≠ .cfgRd a)) ∨
    (s.sys.phase = .config ∧ i ≠ .sysBuild ∧ (∀ a, i ≠ .cfgRd a) ∧ ∀ a, i ≠ .cfgWr a) ∨
    (s.sys.phase = .run ∧ i = .sysBuild) →
    exec i s = .next { s with
      sys := { s.sys with faultLast := .badAccess, faultMask := s.sys.faultMask ||| 0b10000#5 }
      stat := s.stat ++ [.badAccess] }

/-- 60_exceptions.md R292, columns "entered by" and "left by": without `RST` the phase changes only at a `SYS.BUILD`
issued in CONFIG, to RUN with status 0 or to FAILED with status 1. -/
def Obligations.PhaseMovesOnlyAtBuild : Prop :=
  ∀ s t : State, s.rst = false → step s = .next t → t.sys.phase ≠ s.sys.phase →
    s.sys.phase = .config ∧ (∃ cw rest, s.cmd = cw :: rest ∧ decode cw = .ok .sysBuild) ∧
    ((t.sys.phase = .run ∧ t.stat = s.stat ++ [.ok]) ∨ (t.sys.phase = .failed ∧ t.stat = s.stat ++ [.configError]))

/-- 60_exceptions.md R285, R292, 70_reset_and_hazards.md R300: `ConfigError` leaves phase FAILED; in it every operation
except `CFG.RD` is refused with `BadAccess`, the configuration registers stay readable, and only the hardware reset
leaves the phase, to CONFIG. That a raised `RST` is taken by the very next step, whatever stands on `CMD`, is the model's
choice (assumption log 12). -/
def Obligations.FailedIsFinal : Prop :=
  (∀ s t : State, s.rst = false → step s = .next t → t.stat = s.stat ++ [.configError] → t.sys.phase = .failed) ∧
  ∀ s : State, s.sys.phase = .failed →
    (∀ i : Instr, (∀ a, i ≠ .cfgRd a) → exec i s = .next { s with
      sys := { s.sys with faultLast := .badAccess, faultMask := s.sys.faultMask ||| 0b10000#5 }
      stat := s.stat ++ [.badAccess] }) ∧
    (∀ a r, cfgRegAt a = some r → exec (.cfgRd a) s = .next { s with
      dout := s.dout ++ [cfgRead r s]
      stat := s.stat ++ [.ok] }) ∧
    (∀ t, s.rst = false → step s = .next t → t.sys.phase = .failed) ∧
    (s.rst = true → ∃ t, step s = .next t ∧ t.sys.phase = .config)

/-- 60_exceptions.md R287, the complete list: an operation ends with `BadAccess` exactly for one of its causes (a) to
(f); `v` is the operand of a `CFG.WR`. -/
def Obligations.BadAccessCauses : Prop :=
  ∀ (i : Instr) (s t : State), exec i s = .next t →
    (t.stat = s.stat ++ [.badAccess] ↔
      permittedIn i s.sys.phase = false ∨
      (∃ a, (i = .cfgWr a ∨ i = .cfgRd a) ∧ permittedIn i s.sys.phase = true ∧ cfgRegAt a = none) ∨
      (∃ a r v, i = .cfgWr a ∧ permittedIn i s.sys.phase = true ∧ cfgRegAt a = some r ∧ s.din.head? = some v ∧
        (cfgAccess r = .ro ∨ (cfgAccess r = .rwc ∧ s.sys.phase = .run) ∨
          (r = .cfrActive ∧ v ≠ 0#32 ∧ v ≠ 1#32) ∨
          (r = .synSymIdx ∧ s.sys.phase = .run ∧ ¬(0 ≤ v.toInt ∧ v.toInt < nSym s)) ∨
          (r = .synSymIdx ∧ s.sys.phase = .config ∧ v ≠ 0#32))))

/-! Invariants -/

/-- Hardware reset leaves a shaped state (70_reset_and_hazards.md R301), fault registers that agree, and phases in
their turn. -/
def Obligations.ResetMeetsInvariants : Prop :=
  Shaped State.reset ∧ FaultsAgree State.reset.sys ∧
    valueOf State.reset.gar.nco = 0 ∧ valueOf State.reset.cfr.theta = 0 ∧ valueOf State.reset.gar.mu = 0

/-- 10_state.md R25 (which the spec marks as derived), R34, R38 and 45_system_ops.md R236: from every shaped state, a
step leads to a shaped state. -/
def Obligations.StepKeepsShape : Prop := ∀ s t : State, Shaped s → step s = .next t → Shaped t

/-- 60_exceptions.md R281, R290: every step keeps the fault registers in agreement with each other and with the
phase. -/
def Obligations.StepKeepsFaultsAgree : Prop :=
  ∀ s t : State, FaultsAgree s.sys → step s = .next t → FaultsAgree t.sys

/-- 41_gardner.md R138, 42_coarse_freq.md R171, 10_state.md R25: `gar.nco` and `cfr.theta` stay fractions of a turn or
become NaNs, and `gar.mu` stays a fraction of a sample, also beside a NaN. The ranges are [0, 1]: the upper bound is
reached by rounding alone (assumption log 5). -/
def Obligations.StepKeepsPhasesInTurn : Prop :=
  ∀ s t : State,
    (isNaN s.gar.nco = true ∨ isFinite s.gar.nco = true ∧ 0 ≤ valueOf s.gar.nco ∧ valueOf s.gar.nco ≤ 1) →
    (isFinite s.gar.mu = true ∧ 0 ≤ valueOf s.gar.mu ∧ valueOf s.gar.mu ≤ 1) →
    (isNaN s.cfr.theta = true ∨ isFinite s.cfr.theta = true ∧ 0 ≤ valueOf s.cfr.theta ∧ valueOf s.cfr.theta ≤ 1) →
    step s = .next t →
    (isNaN t.gar.nco = true ∨ isFinite t.gar.nco = true ∧ 0 ≤ valueOf t.gar.nco ∧ valueOf t.gar.nco ≤ 1) ∧
    (isFinite t.gar.mu = true ∧ 0 ≤ valueOf t.gar.mu ∧ valueOf t.gar.mu ≤ 1) ∧
    (isNaN t.cfr.theta = true ∨ isFinite t.cfr.theta = true ∧ 0 ≤ valueOf t.cfr.theta ∧ valueOf t.cfr.theta ≤ 1)

/-- 41_gardner.md R157, 60_exceptions.md R294: without `RST` neither counter decreases; the underflow counter moves by
exactly 1, and exactly when the step ends with `ProcessingAborted`. R157 is marked as derived. -/
def Obligations.CountersNeverDecrease : Prop :=
  ∀ s t : State, s.rst = false → step s = .next t →
    s.gar.ovfCnt ≤ t.gar.ovfCnt ∧
    t.gar.udfCnt = s.gar.udfCnt + (if t.stat = s.stat ++ [.processingAborted] then 1 else 0)

/-- 20_memory.md R77 (b): after `SYS.BUILD` the construction registers cannot be written: in phase RUN a step without
`RST` changes none of them. -/
def Obligations.ConfigurationFrozenInRun : Prop :=
  ∀ s t : State, s.rst = false → s.sys.phase = .run → step s = .next t →
    frozen t = frozen s ∧ t.frm.refSof = s.frm.refSof ∧ t.frm.refPlsc = s.frm.refPlsc

/-! FAR -/

/-- 40_farrow.md R111, R112: `FAR.SETMU` for every value of `R`. -/
def Obligations.FarSetmuResult : Prop :=
  ∀ (s : State) (mu : Word) (rest : List Word), s.sys.phase = .run → s.din = mu :: rest →
    exec .farSetmu s = .next { s with
      din := rest
      far := {
        h := s.far.h
        mu := mu
        b := {
          b0 := rSub (rMul rHalf (rMul mu mu)) (rMul rHalf mu)
          b1 := rSub (rSub rOne (rMul rHalf mu)) (rMul rHalf (rMul mu mu))
          b2 := rSub (rAdd mu (rMul rHalf mu)) (rMul rHalf (rMul mu mu))
          b3 := rSub (rMul rHalf (rMul mu mu)) (rMul rHalf mu) } }
      stat := s.stat ++ [.ok] }

/-- 40_farrow.md R114, R115: `FAR.STEP`: the window moves by one, the output pairs `b0` with the oldest sample and
`b3` with the one just given, summed left to right. -/
def Obligations.FarStepResult : Prop :=
  ∀ (s : State) (re im : Word) (rest : List Word), s.sys.phase = .run → s.din = re :: im :: rest →
    exec .farStep s = .next { s with
      din := rest
      far := { s.far with h := { h0 := s.far.h.h1, h1 := s.far.h.h2, h2 := s.far.h.h3, h3 := { re := re, im := im } } }
      dout := s.dout ++
        [rAdd (rAdd (rAdd (rMul s.far.b.b0 s.far.h.h1.re) (rMul s.far.b.b1 s.far.h.h2.re))
            (rMul s.far.b.b2 s.far.h.h3.re)) (rMul s.far.b.b3 re),
          rAdd (rAdd (rAdd (rMul s.far.b.b0 s.far.h.h1.im) (rMul s.far.b.b1 s.far.h.h2.im))
            (rMul s.far.b.b2 s.far.h.h3.im)) (rMul s.far.b.b3 im)]
      stat := s.stat ++ [.ok] }

/-- 40_farrow.md R118 (first half), R114: with the coefficients of `mu = 0` and finite samples, the output of
`FAR.STEP` has exactly the value of the sample given two steps earlier: the spec's own inference in R118, "the first half
holds exactly with a delay of two samples". -/
def Obligations.FarPureDelay : Prop :=
  ∀ (s : State) (re im : Word) (rest : List Word), s.sys.phase = .run → s.din = re :: im :: rest →
    s.far.b = { b0 := rZero, b1 := rOne, b2 := rZero, b3 := rZero } →
    (∀ z ∈ [s.far.h.h1, s.far.h.h2, s.far.h.h3, { re := re, im := im }],
      isFinite z.re = true ∧ isFinite z.im = true) →
    ∃ (t : State) (y : C), exec .farStep s = .next t ∧ t.dout = s.dout ++ [y.re, y.im] ∧ isFinite y.re = true ∧
      isFinite y.im = true ∧ valueOf y.re = valueOf s.far.h.h2.re ∧ valueOf y.im = valueOf s.far.h.h2.im

/-- 40_farrow.md R116: `FAR.RESET`. -/
def Obligations.FarResetResult : Prop :=
  ∀ s : State, s.sys.phase = .run →
    exec .farReset s = .next { s with
      far := {
        h := { h0 := C0, h1 := C0, h2 := C0, h3 := C0 }
        b := { b0 := rZero, b1 := rOne, b2 := rZero, b3 := rZero }
        mu := rZero }
      stat := s.stat ++ [.ok] }

/-! GAR -/

/-- 41_gardner.md R131 to R140, R146: `GAR.STEP`, every element of GAR and FAR after it, and its three results. -/
def Obligations.GarStepResult : Prop :=
  ∀ (s : State) (x : C) (rest : List Word), s.sys.phase = .run → s.din = x.re :: x.im :: rest →
    ∃ t, exec .garStep s = .next t ∧
      let y := farDot (farShift x s.far)
      let prev := s.gar.ted.getD (osf s - 1) C0
      let mid := s.gar.ted.getD (osf s - osf s / 2 - 1) C0
      let w := rAdd t.gar.lfOut (rDiv rOne (toR (osf s)))
      t.dout = s.dout ++ [y.re, y.im, if s.gar.isStrobe then 1#32 else 0#32] ∧
      t.gar.lastSym = y ∧
      t.gar.sh = 2 * s.gar.sh % 2 ^ osf s + (if s.gar.isStrobe then 1 else 0) ∧
      t.gar.tedErr = (if t.gar.sh = 1 then
        rAdd (rMul mid.re (rSub prev.re y.re)) (rMul mid.im (rSub prev.im y.im)) else rZero) ∧
      (popcount (osf s) t.gar.sh = 0 → t.gar.ted = s.gar.ted) ∧
      (popcount (osf s) t.gar.sh = 1 → t.gar.ted = (y :: s.gar.ted).dropLast) ∧
      (2 ≤ popcount (osf s) t.gar.sh → t.gar.ted = (y :: (C0 :: s.gar.ted).dropLast).dropLast) ∧
      t.gar.lfState = rAdd s.gar.lfState (rMul s.gar.ki t.gar.tedErr) ∧
      t.gar.lfOut = rAdd (rMul s.gar.kp t.gar.tedErr) t.gar.lfState ∧
      t.gar.isStrobe = rLt s.gar.nco w ∧
      t.gar.mu = (if rLt s.gar.nco w then rDiv s.gar.nco w else s.gar.mu) ∧
      t.gar.nco = rSub (rSub s.gar.nco w) (rFloor (rSub s.gar.nco w)) ∧
      (s.gar.isStrobe = false → t.gar.oring = s.gar.oring ∧ t.gar.ovfCnt = s.gar.ovfCnt) ∧
      (s.gar.isStrobe = true → s.gar.oring.length = oringCap s →
        t.gar.oring = s.gar.oring.tail ++ [y] ∧ t.gar.ovfCnt = s.gar.ovfCnt + 1) ∧
      (s.gar.isStrobe = true → s.gar.oring.length ≠ oringCap s →
        t.gar.oring = s.gar.oring ++ [y] ∧ t.gar.ovfCnt = s.gar.ovfCnt) ∧
      t.gar.kp = s.gar.kp ∧ t.gar.ki = s.gar.ki ∧ t.gar.udfCnt = s.gar.udfCnt ∧
      t.far.h = { h0 := s.far.h.h1, h1 := s.far.h.h2, h2 := s.far.h.h3, h3 := x } ∧
      t.far.mu = (if rLt s.gar.nco w then t.gar.mu else s.far.mu) ∧
      t.far.b = (if rLt s.gar.nco w then farrowCoef t.gar.mu else s.far.b) ∧
      t = { s with din := rest, far := t.far, gar := t.gar, dout := t.dout, stat := s.stat ++ [.ok] }

/-- 41_gardner.md R144: `GAR.SYNC` is exactly `N_SMP` consecutive `GAR.STEP`s without their outputs, a sentence the spec
marks as derived. -/
def Obligations.GarSyncIsItsSteps : Prop :=
  ∀ s : State, s.sys.phase = .run → 2 * nSmp s ≤ s.din.length →
    ∃ u, execMany .garStep (nSmp s) s = .next u ∧
      exec .garSync s = .next { u with dout := s.dout, stat := s.stat ++ [.ok] }

/-- 41_gardner.md R148: `GAR.EXTRACT` with enough symbols delivers the oldest N_SYM and `UFW` 0; with fewer it pads
with zeros, counts one underflow, and completes with `ProcessingAborted` and `UFW` 1. -/
def Obligations.GarExtractResult : Prop :=
  ∀ s : State, s.sys.phase = .run →
    (nSym s ≤ s.gar.oring.length → exec .garExtract s = .next { s with
      gar := { s.gar with oring := s.gar.oring.drop (nSym s) }
      dout := s.dout ++ wordsOf (s.gar.oring.take (nSym s)) ++ [0#32]
      stat := s.stat ++ [.ok] }) ∧
    (s.gar.oring.length < nSym s → exec .garExtract s = .next { s with
      gar := { s.gar with oring := [], udfCnt := s.gar.udfCnt + 1 }
      dout := s.dout ++ wordsOf s.gar.oring ++ List.replicate (2 * (nSym s - s.gar.oring.length)) 0#32 ++ [1#32]
      sys := { s.sys with faultLast := .processingAborted, faultMask := s.sys.faultMask ||| 0b00100#5 }
      stat := s.stat ++ [.processingAborted] })

/-- 41_gardner.md R150: `GAR.RESET`; the gains and both counters are kept. -/
def Obligations.GarResetResult : Prop :=
  ∀ s : State, s.sys.phase = .run →
    exec .garReset s = .next { s with
      far := {
        h := { h0 := C0, h1 := C0, h2 := C0, h3 := C0 }
        b := { b0 := rZero, b1 := rOne, b2 := rZero, b3 := rZero }
        mu := rZero }
      gar := {
        isStrobe := false, sh := 0, ted := List.replicate (osf s) C0, tedErr := rZero, lfState := rZero
        lfOut := rZero, nco := rZero, mu := rZero, lastSym := C0, oring := []
        kp := s.gar.kp, ki := s.gar.ki, ovfCnt := s.gar.ovfCnt, udfCnt := s.gar.udfCnt }
      stat := s.stat ++ [.ok] }

/-- 41_gardner.md R138, corner case: where a strobe is declared, `0 ≤ gar.nco < W`, the quotient `mu` lies in [0, 1];
for every pair of values of `R`. -/
def Obligations.StrobeOffsetAtMostOne : Prop :=
  ∀ a b : Real32, rLt a rZero = false → rLt a b = true →
    isFinite (rDiv a b) = true ∧ 0 ≤ valueOf (rDiv a b) ∧ valueOf (rDiv a b) ≤ 1

/-! CFR -/

/-- 42_coarse_freq.md R171, R172: `CFR.STEP`, gated by nothing. -/
def Obligations.CfrStepResult : Prop :=
  ∀ (s : State) (re im : Word) (rest : List Word), s.sys.phase = .run → s.din = re :: im :: rest →
    let c := cos2pi s.cfr.theta
    let n := rNeg (sin2pi s.cfr.theta)
    exec .cfrStep s = .next { s with
      din := rest
      cfr := { s.cfr with
        theta := rSub (rAdd s.cfr.theta s.cfr.freq) (rFloor (rAdd s.cfr.theta s.cfr.freq)) }
      dout := s.dout ++ [rSub (rMul re c) (rMul im n), rAdd (rMul re n) (rMul im c)]
      stat := s.stat ++ [.ok] }

/-- 42_coarse_freq.md R171: the sample rotated at phase 0 is unchanged: the output of `CFR.STEP` has exactly its
value. -/
def Obligations.RotationAtPhaseZero : Prop :=
  ∀ (s : State) (re im : Word) (rest : List Word), s.sys.phase = .run → s.din = re :: im :: rest →
    s.cfr.theta = rZero → isFinite re = true → isFinite im = true →
    ∃ (t : State) (y : C), exec .cfrStep s = .next t ∧ t.dout = s.dout ++ [y.re, y.im] ∧ isFinite y.re = true ∧
      isFinite y.im = true ∧ valueOf y.re = valueOf re ∧ valueOf y.im = valueOf im

/-- 42_coarse_freq.md R174: `CFR.SYNC` is `N_SMP` consecutive `CFR.STEP`s, with their outputs and one status, a
sentence the spec marks as derived; of CFR only the phase moves. -/
def Obligations.CfrSyncIsItsSteps : Prop :=
  ∀ s : State, s.sys.phase = .run → 2 * nSmp s ≤ s.din.length →
    ∃ u, execMany .cfrStep (nSmp s) s = .next u ∧ exec .cfrSync s = .next { u with stat := s.stat ++ [.ok] } ∧
      u.cfr = { s.cfr with theta := u.cfr.theta } ∧ u.dout.length = s.dout.length + 2 * nSmp s

/-- 42_coarse_freq.md R176: `CFR.UPD` with the gate open, and with it closed: then the operands are popped and nothing
else changes. -/
def Obligations.CfrUpdResult : Prop :=
  ∀ (s : State) (re im : Word) (rest : List Word), s.sys.phase = .run → s.din = re :: im :: rest →
    let err := rAdd (rMul re (rNeg s.cfr.p2.im)) (rMul im s.cfr.p2.re)
    let st := rAdd s.cfr.lfState (rMul s.cfr.ki err)
    (s.cfr.active = true → exec .cfrUpd s = .next { s with
      din := rest
      cfr := { s.cfr with
        err := err, lfState := st, freq := rAdd (rMul s.cfr.kp err) st, p2 := s.cfr.p1
        p1 := { re := re, im := im } }
      stat := s.stat ++ [.ok] }) ∧
    (s.cfr.active = false → exec .cfrUpd s = .next { s with din := rest, stat := s.stat ++ [.ok] })

/-- 42_coarse_freq.md R180: `CFR.RESET`; the gate and the gains are kept. -/
def Obligations.CfrResetResult : Prop :=
  ∀ s : State, s.sys.phase = .run →
    exec .cfrReset s = .next { s with
      cfr := {
        p1 := C0, p2 := C0, err := rZero, lfState := rZero, freq := rZero, theta := rZero
        active := s.cfr.active, kp := s.cfr.kp, ki := s.cfr.ki }
      stat := s.stat ++ [.ok] }

/-! FRM -/

/-- 43_frame_sync.md R194 to R202: `FRM.SYNC` on a block of N_SYM symbols: every element of FRM after it and its
results `Y`, `DEL`, `FLG`, `TRI`. -/
def Obligations.FrmSyncResult : Prop :=
  ∀ (s : State) (xs : List C) (rest : List Word), s.sys.phase = .run → xs.length = nSym s →
    s.din = wordsOf xs ++ rest →
    let n := nSym s
    let r := frmPositions s.frm.refSof s.frm.refPlsc s.frm.alpha s.frm.hist s.frm.cs xs
    let p := peak r.1
    let delay := (((n : Int) + p.1 - 89) % n).toNat
    let flag := rGt p.2 s.frm.trigger
    exec .frmSync s = .next { s with
      din := rest
      frm := { s.frm with
        cs := r.1, hist := r.2, maxIdx := p.1, maxCorr := p.2, delay := delay, flag := flag, dl := xs }
      dout := s.dout ++ wordsOf (realigned n delay s.frm.dl xs) ++
        [BitVec.ofNat 32 delay, if flag then 1#32 else 0#32, p.2]
      stat := s.stat ++ [.ok] }

/-- 43_frame_sync.md R192: the correlation is the two running sums over ascending `k`, the oldest history entry
against the first reference symbol, combined as the greater magnitude of sum and difference. -/
def Obligations.CorrelationSums : Prop :=
  ∀ sof plsc hist : List C, sof.length = 25 → plsc.length = 64 → hist.length = 89 →
    let cS := (List.range 25).foldl
      (fun acc k => cAdd acc (cMul (hist.getD k C0) (cConj (sof.getD k C0)))) C0
    let cP := (List.range 64).foldl
      (fun acc k => cAdd acc (cMul (hist.getD (25 + k) C0) (cConj (plsc.getD k C0)))) C0
    let a := cAbs (cAdd cS cP)
    let b := cAbs (cSub cS cP)
    frmCorr sof plsc hist = if rGt a b then a else b

/-- 43_frame_sync.md R194: position `i` is smoothed with the correlation of the 89 symbols received before `X[i]`,
with weight `alpha` for the new observation; afterwards the history holds the last 89 symbols. -/
def Obligations.PositionsSeeEarlierSymbols : Prop :=
  ∀ (sof plsc hist xs : List C) (alpha : Real32) (cs : List Real32), hist.length = 89 → cs.length = xs.length →
    let r := frmPositions sof plsc alpha hist cs xs
    r.1.length = cs.length ∧ r.2 = (hist ++ xs).drop xs.length ∧
    ∀ i, i < cs.length → r.1.getD i rZero =
      rAdd (rMul (rSub rOne alpha) (cs.getD i rZero))
        (rMul alpha (frmCorr sof plsc (((hist ++ xs).drop i).take 89)))

/-- 43_frame_sync.md R195: the peak is an entry, no entry is greater, and every earlier entry is smaller or a NaN: the
lowest index wins; a NaN wins only at index 0. -/
def Obligations.PeakIsFirstMaximum : Prop :=
  ∀ cs : List Real32, cs ≠ [] →
    (peak cs).1 < cs.length ∧ cs.getD (peak cs).1 rZero = (peak cs).2 ∧
    (∀ j, j < cs.length → rGt (cs.getD j rZero) (peak cs).2 = false) ∧
    (∀ j, j < (peak cs).1 → isNaN (cs.getD j rZero) = true ∨ rGt (peak cs).2 (cs.getD j rZero) = true) ∧
    (isNaN (cs.getD 0 rZero) = true → (peak cs).1 = 0) ∧
    (isNaN (peak cs).2 = true → (peak cs).1 = 0)

/-- 43_frame_sync.md R196, 70_reset_and_hazards.md R316 (e): a header that starts at position `p` peaks at position
`(p + 89) mod N_SYM`, and the delay formula maps that back to `p`, for every block length: the spec's own inference. -/
def Obligations.DelayFindsHeader : Prop :=
  ∀ n p : Nat, p < n → frameDelay n ((p + 89) % n) = p

/-- 43_frame_sync.md R202: the realigned block is `previous_block[delay ..] ++ X[0 .. delay-1]`, the spec's own reading of
lines 1 to 4; at delay 0, where `L` is 0, those lines give the present block. -/
def Obligations.RealignedBlock : Prop :=
  ∀ (n delay : Nat) (dl xs : List C), dl.length = n → xs.length = n → delay < n →
    (delay ≠ 0 → realigned n delay dl xs = dl.drop delay ++ xs.take delay) ∧
    (delay = 0 → realigned n delay dl xs = xs)

/-- 43_frame_sync.md R206: `FRM.RESET`; `alpha`, `trigger` and the references are kept. -/
def Obligations.FrmResetResult : Prop :=
  ∀ s : State, s.sys.phase = .run →
    exec .frmReset s = .next { s with
      frm := {
        hist := List.replicate 89 C0, dl := List.replicate (nSym s) C0, cs := List.replicate (nSym s) rZero
        delay := 0, maxIdx := 0, maxCorr := rZero, flag := false
        alpha := s.frm.alpha, trigger := s.frm.trigger, refSof := s.frm.refSof, refPlsc := s.frm.refPlsc }
      stat := s.stat ++ [.ok] }

/-! SYN -/

/-- 44_fused_step.md R224: the predicate of the rule, and that it holds exactly in the pilot blocks, block `p` occupying
the 36 indices from `1530 + 1476 p` on; so in no frame of at most 1530 symbols. -/
def Obligations.PilotZoneIsPilotBlocks : Prop :=
  (∀ i : Nat, pilotZone i = true ↔ 1530 ≤ i ∧ 54 ≤ i % 1476 ∧ i % 1476 < 90) ∧
  (∀ i : Nat, pilotZone i = true ↔ ∃ p, 1530 + 1476 * p ≤ i ∧ i ≤ 1530 + 1476 * p + 35) ∧
  ∀ n i : Nat, n ≤ 1530 → i < n → pilotZone i = false

/-- 44_fused_step.md R222: `SYN.SYNC` passes the block sample by sample, drains N_SYM symbols, and returns `Y`, `MU`,
`UFW`, with and without an underflow. -/
def Obligations.SynSyncResult : Prop :=
  ∀ (s : State) (xs : List C) (rest : List Word), s.sys.phase = .run → xs.length = nSmp s →
    s.din = wordsOf xs ++ rest →
    let t := xs.foldl synSample { s with din := rest }
    (nSym s ≤ t.gar.oring.length → exec .synSync s = .next { s with
      din := rest, far := t.far, cfr := t.cfr, syn := t.syn, mf := t.mf
      gar := { t.gar with oring := t.gar.oring.drop (nSym s) }
      dout := s.dout ++ wordsOf (t.gar.oring.take (nSym s)) ++ [t.gar.mu, 0#32]
      stat := s.stat ++ [.ok] }) ∧
    (t.gar.oring.length < nSym s → exec .synSync s = .next { s with
      din := rest, far := t.far, cfr := t.cfr, syn := t.syn, mf := t.mf
      gar := { t.gar with oring := [], udfCnt := t.gar.udfCnt + 1 }
      dout := s.dout ++ wordsOf t.gar.oring ++ List.replicate (2 * (nSym s - t.gar.oring.length)) 0#32 ++
        [t.gar.mu, 1#32]
      sys := { s.sys with faultLast := .processingAborted, faultMask := s.sys.faultMask ||| 0b00100#5 }
      stat := s.stat ++ [.processingAborted] })

/-- 44_fused_step.md R228: one sample of `SYN.SYNC` is the separate operations in the order of the rule: `CFR.STEP`, the
matched filter, `GAR.STEP`, and, when its flag was 1 and the position lies in the pilot zone, `CFR.UPD` with its
symbol. The rule is marked as derived. -/
def Obligations.SynSampleIsSeparateOperations : Prop :=
  ∀ (s : State) (x : C) (rest : List Word), s.sys.phase = .run → s.din = x.re :: x.im :: rest →
    ∃ (a : State) (z : C) (b : State) (y : C) (c : State), exec .cfrStep s = .next a ∧ a.dout = s.dout ++ [z.re, z.im] ∧
      exec .garStep { a with din := (mfStep s.mf z).2.re :: (mfStep s.mf z).2.im :: rest } = .next b ∧
      b.dout = a.dout ++ [y.re, y.im, boolWord s.gar.isStrobe] ∧
      (if s.gar.isStrobe = true ∧ pilotZone s.syn.symIdx = true then
        exec .cfrUpd { b with din := y.re :: y.im :: rest } else .next b) = .next c ∧
      synSample { s with din := rest } x = { s with
        din := rest, far := c.far, gar := c.gar, cfr := c.cfr, mf := (mfStep s.mf z).1
        syn := { symIdx := if s.gar.isStrobe then (s.syn.symIdx + 1) % nSym s else s.syn.symIdx } }

/-- 44_fused_step.md R222, corner case: with `cfr.active = 0` and `MF` the identity, `SYN.SYNC` leaves GAR (and FAR and
CFR) as `CFR.SYNC`, `GAR.SYNC` on its output and `GAR.EXTRACT` do, and returns the same `Y` and `UFW`. -/
def Obligations.SynSyncIsSeparatePasses : Prop :=
  ∀ (s : State) (xs : List C) (rest : List Word), s.sys.phase = .run → s.cfr.active = false → s.mf = .passThrough →
    xs.length = nSmp s → s.din = wordsOf xs ++ rest →
    ∃ (t u v w : State) (zs : List C) (out : List Word) (ufw : Word), exec .synSync s = .next t ∧ exec .cfrSync s = .next u ∧
      u.dout = s.dout ++ wordsOf zs ∧ exec .garSync { u with din := wordsOf zs ++ rest } = .next v ∧
      exec .garExtract v = .next w ∧
      t.gar = w.gar ∧ t.far = w.far ∧ t.cfr = w.cfr ∧ out.length = 2 * nSym s ∧
      t.dout = s.dout ++ out ++ [t.gar.mu, ufw] ∧ w.dout = v.dout ++ out ++ [ufw]

/-- 44_fused_step.md R226: `SYN.RESET`; all FRM state, the gains, `cfr.active` and the counters are kept. -/
def Obligations.SynResetResult : Prop :=
  ∀ s : State, s.sys.phase = .run →
    exec .synReset s = .next { s with
      far := {
        h := { h0 := C0, h1 := C0, h2 := C0, h3 := C0 }
        b := { b0 := rZero, b1 := rOne, b2 := rZero, b3 := rZero }
        mu := rZero }
      gar := {
        isStrobe := false, sh := 0, ted := List.replicate (osf s) C0, tedErr := rZero, lfState := rZero
        lfOut := rZero, nco := rZero, mu := rZero, lastSym := C0, oring := []
        kp := s.gar.kp, ki := s.gar.ki, ovfCnt := s.gar.ovfCnt, udfCnt := s.gar.udfCnt }
      cfr := {
        p1 := C0, p2 := C0, err := rZero, lfState := rZero, freq := rZero, theta := rZero
        active := s.cfr.active, kp := s.cfr.kp, ki := s.cfr.ki }
      mf := mfReset s.mf
      syn := { symIdx := 0 }
      stat := s.stat ++ [.ok] }

/-! SYS -/

/-- 45_system_ops.md R236, R237: `SYS.BUILD` of a valid configuration with finite gains: the gains it commits, the
lengths it gives, the stage reset of every unit, phase RUN. -/
def Obligations.SysBuildResult : Prop :=
  ∀ s : State, s.sys.phase = .config →
    2 ≤ s.sys.osf.toInt → s.sys.osf.toInt ≤ 32 → 1 ≤ s.sys.nsym.toInt →
    s.sys.nsym.toInt ≤ s.sys.oringCap.toInt → 0 ≤ s.sys.gainmode.toInt → s.sys.gainmode.toInt ≤ 3 →
    (s.sys.gainmode.getLsbD 0 = false →
      rGt s.sys.garZeta rZero = true ∧ isNaN s.sys.garKd = false ∧ isZero s.sys.garKd = false) →
    (s.sys.gainmode.getLsbD 1 = false →
      rGt s.sys.cfrZeta rZero = true ∧ isNaN s.sys.cfrKd = false ∧ isZero s.sys.cfrKd = false) →
    let n := s.sys.osf.toInt.toNat
    let m := s.sys.nsym.toInt.toNat
    let g := if s.sys.gainmode.getLsbD 0 then { kp := s.gar.kp, ki := s.gar.ki }
      else lfDesign s.sys.garZeta s.sys.garBn s.sys.garKd n rNegOne
    let c := if s.sys.gainmode.getLsbD 1 then { kp := s.cfr.kp, ki := s.cfr.ki }
      else lfDesign s.sys.cfrZeta s.sys.cfrBn s.sys.cfrKd n rOne
    isFinite g.kp = true → isFinite g.ki = true → isFinite c.kp = true → isFinite c.ki = true →
    exec .sysBuild s = .next { s with
      far := {
        h := { h0 := C0, h1 := C0, h2 := C0, h3 := C0 }
        b := { b0 := rZero, b1 := rOne, b2 := rZero, b3 := rZero }
        mu := rZero }
      gar := {
        isStrobe := false, sh := 0, ted := List.replicate n C0, tedErr := rZero, lfState := rZero
        lfOut := rZero, nco := rZero, mu := rZero, lastSym := C0, oring := []
        kp := g.kp, ki := g.ki, ovfCnt := s.gar.ovfCnt, udfCnt := s.gar.udfCnt }
      cfr := {
        p1 := C0, p2 := C0, err := rZero, lfState := rZero, freq := rZero, theta := rZero
        active := s.cfr.active, kp := c.kp, ki := c.ki }
      frm := { s.frm with
        hist := List.replicate 89 C0, dl := List.replicate m C0, cs := List.replicate m rZero
        delay := 0, maxIdx := 0, maxCorr := rZero, flag := false }
      mf := mfReset s.mf
      syn := { symIdx := 0 }
      sys := { s.sys with phase := .run }
      stat := s.stat ++ [.ok] }

/-- 45_system_ops.md R236, R237, R281: a configuration that breaks a clause of R237, or whose gains are not finite, fails
with `ConfigError`; no gain is overwritten and nothing but the phase and the fault registers changes. -/
def Obligations.SysBuildRejects : Prop :=
  ∀ s : State, s.sys.phase = .config →
    let n := s.sys.osf.toInt.toNat
    let g := if s.sys.gainmode.getLsbD 0 then { kp := s.gar.kp, ki := s.gar.ki }
      else lfDesign s.sys.garZeta s.sys.garBn s.sys.garKd n rNegOne
    let c := if s.sys.gainmode.getLsbD 1 then { kp := s.cfr.kp, ki := s.cfr.ki }
      else lfDesign s.sys.cfrZeta s.sys.cfrBn s.sys.cfrKd n rOne
    ¬(2 ≤ s.sys.osf.toInt ∧ s.sys.osf.toInt ≤ 32) ∨ ¬1 ≤ s.sys.nsym.toInt ∨
    ¬s.sys.nsym.toInt ≤ s.sys.oringCap.toInt ∨ ¬(0 ≤ s.sys.gainmode.toInt ∧ s.sys.gainmode.toInt ≤ 3) ∨
    (s.sys.gainmode.getLsbD 0 = false ∧
      ¬(rGt s.sys.garZeta rZero = true ∧ isNaN s.sys.garKd = false ∧ isZero s.sys.garKd = false)) ∨
    (s.sys.gainmode.getLsbD 1 = false ∧
      ¬(rGt s.sys.cfrZeta rZero = true ∧ isNaN s.sys.cfrKd = false ∧ isZero s.sys.cfrKd = false)) ∨
    isFinite g.kp = false ∨ isFinite g.ki = false ∨ isFinite c.kp = false ∨ isFinite c.ki = false →
    exec .sysBuild s = .next { s with
      sys := { s.sys with
        faultLast := .configError, faultMask := s.sys.faultMask ||| 0b00010#5, phase := .failed }
      stat := s.stat ++ [.configError] }

/-- 45_system_ops.md R240: `SYS.RESET` is `SYN.RESET` plus `FRM.RESET`; every kept register is kept. -/
def Obligations.SysResetResult : Prop :=
  ∀ s : State, s.sys.phase = .run →
    ∃ t u, exec .synReset s = .next t ∧ exec .frmReset t = .next u ∧
      exec .sysReset s = .next { u with stat := s.stat ++ [.ok] } ∧
      u.sys = s.sys ∧ u.gar.kp = s.gar.kp ∧ u.gar.ki = s.gar.ki ∧ u.gar.ovfCnt = s.gar.ovfCnt ∧
      u.gar.udfCnt = s.gar.udfCnt ∧ u.cfr.kp = s.cfr.kp ∧ u.cfr.ki = s.cfr.ki ∧ u.cfr.active = s.cfr.active ∧
      u.frm.alpha = s.frm.alpha ∧ u.frm.trigger = s.frm.trigger ∧ u.frm.refSof = s.frm.refSof ∧
      u.frm.refPlsc = s.frm.refPlsc ∧ u.din = s.din ∧ u.dout = s.dout ∧ u.cmd = s.cmd ∧ u.rst = s.rst

/-- 45_system_ops.md R242: a `CFG.WR` that passes its checks pops its operand, ends with status 0, and the register then
reads as the value written, every other register as before, nothing on `DOUT`. -/
def Obligations.CfgWrThenRead : Prop :=
  ∀ (s : State) (a : Nat) (r : CfgReg) (v : Word) (rest : List Word),
    FixedShape s → cfgRegAt a = some r → s.din = v :: rest →
    (cfgAccess r = .rwc ∧ s.sys.phase = .config) ∨
    (r = .cfrActive ∧ s.sys.phase ≠ .failed ∧ (v = 0#32 ∨ v = 1#32)) ∨
    (r = .synSymIdx ∧ s.sys.phase = .run ∧ 0 ≤ v.toInt ∧ v.toInt < nSym s) ∨
    (r = .synSymIdx ∧ s.sys.phase = .config ∧ v = 0#32) →
    ∃ t, exec (.cfgWr a) s = .next t ∧ t.din = rest ∧ t.dout = s.dout ∧ t.stat = s.stat ++ [.ok] ∧
      cfgRead r t = v ∧
      (∀ b q, b ≠ a → cfgRegAt b = some q → cfgRead q t = cfgRead q s) ∧
      t.far = s.far ∧ t.gar = { s.gar with kp := t.gar.kp, ki := t.gar.ki } ∧
      t.cfr = { s.cfr with active := t.cfr.active, kp := t.cfr.kp, ki := t.cfr.ki } ∧
      t.frm = { s.frm with alpha := t.frm.alpha, trigger := t.frm.trigger, refSof := t.frm.refSof
                           refPlsc := t.frm.refPlsc } ∧
      t.sys.phase = s.sys.phase ∧ t.mf = s.mf ∧ t.cmd = s.cmd ∧ t.rst = s.rst

/-- 45_system_ops.md R242 lines 3 to 7: a `CFG.WR` to an unmapped address, to a read-only register, to an `RWc` register
in RUN, or with a value the register does not take, has popped its operand and raises `BadAccess`; nothing else
changes. -/
def Obligations.CfgWrRefused : Prop :=
  ∀ (s : State) (a : Nat) (v : Word) (rest : List Word), s.sys.phase ≠ .failed → s.din = v :: rest →
    cfgRegAt a = none ∨
    (∃ r, cfgRegAt a = some r ∧
      (cfgAccess r = .ro ∨ (cfgAccess r = .rwc ∧ s.sys.phase ≠ .config) ∨
        (r = .cfrActive ∧ v ≠ 0#32 ∧ v ≠ 1#32) ∨
        (r = .synSymIdx ∧ s.sys.phase = .run ∧ ¬(0 ≤ v.toInt ∧ v.toInt < nSym s)) ∨
        (r = .synSymIdx ∧ s.sys.phase = .config ∧ v ≠ 0#32))) →
    exec (.cfgWr a) s = .next { s with
      din := rest
      sys := { s.sys with faultLast := .badAccess, faultMask := s.sys.faultMask ||| 0b10000#5 }
      stat := s.stat ++ [.badAccess] }

/-- 45_system_ops.md R244, 10_state.md R50: `CFG.RD` in every phase. A mapped register is pushed on `DOUT` and nothing
else changes; an unmapped address raises `BadAccess` with nothing pushed; and every address of the table of R50 pushes
the state element the table names. That a number reads as its low 32 bits is assumption log 14. -/
def Obligations.CfgRdResult : Prop :=
  ∀ s : State,
    (∀ a r, cfgRegAt a = some r → exec (.cfgRd a) s = .next { s with
      dout := s.dout ++ [cfgRead r s]
      stat := s.stat ++ [.ok] }) ∧
    (∀ a, cfgRegAt a = none → exec (.cfgRd a) s = .next { s with
      sys := { s.sys with faultLast := .badAccess, faultMask := s.sys.faultMask ||| 0b10000#5 }
      stat := s.stat ++ [.badAccess] }) ∧
    (∀ p ∈ ([
      (0x0000, 0x44565332#32), (0x0001, match s.sys.phase with | .config => 0#32 | .run => 1#32 | .failed => 2#32),
      (0x0002, match s.sys.faultLast with
        | .ok => 0#32 | .configError => 1#32 | .processingAborted => 2#32 | .unimplemented => 3#32
        | .badAccess => 4#32),
      (0x0003, s.sys.faultMask.setWidth 32), (0x0008, s.sys.osf), (0x0009, s.sys.nsym), (0x000A, s.sys.oringCap),
      (0x000B, s.sys.gainmode), (0x0100, s.sys.garZeta), (0x0101, s.sys.garBn), (0x0102, s.sys.garKd),
      (0x0103, s.gar.kp), (0x0104, s.gar.ki), (0x0108, s.gar.mu), (0x0109, if s.gar.isStrobe then 1#32 else 0#32),
      (0x010A, s.gar.lastSym.re), (0x010B, s.gar.lastSym.im),
      (0x010C, BitVec.ofNat 32 (min s.gar.ovfCnt (2 ^ 32 - 1))),
      (0x010D, BitVec.ofNat 32 (min s.gar.udfCnt (2 ^ 32 - 1))), (0x010E, BitVec.ofNat 32 s.gar.oring.length),
      (0x0110, s.gar.nco), (0x0111, s.gar.lfState), (0x0112, s.gar.lfOut), (0x0113, s.gar.tedErr),
      (0x0114, BitVec.ofNat 32 s.gar.sh), (0x0118, s.far.mu), (0x011C, s.far.b.b0), (0x011D, s.far.b.b1),
      (0x011E, s.far.b.b2), (0x011F, s.far.b.b3), (0x0200, s.sys.cfrZeta), (0x0201, s.sys.cfrBn),
      (0x0202, s.sys.cfrKd), (0x0203, s.cfr.kp), (0x0204, s.cfr.ki), (0x0208, if s.cfr.active then 1#32 else 0#32),
      (0x0209, s.cfr.freq), (0x020A, s.cfr.theta), (0x020B, s.cfr.lfState), (0x020C, s.cfr.err),
      (0x0300, s.frm.alpha), (0x0301, s.frm.trigger), (0x0308, BitVec.ofNat 32 s.frm.delay),
      (0x0309, if s.frm.flag then 1#32 else 0#32), (0x030A, s.frm.maxCorr), (0x030B, BitVec.ofNat 32 s.frm.maxIdx),
      (0x0500, BitVec.ofNat 32 s.syn.symIdx)] : List (Nat × Word)),
      exec (.cfgRd p.1) s = .next { s with dout := s.dout ++ [p.2], stat := s.stat ++ [.ok] }) ∧
    (∀ k, k < 25 →
      exec (.cfgRd (0x0400 + 2 * k)) s = .next { s with
        dout := s.dout ++ [(s.frm.refSof.getD k C0).re], stat := s.stat ++ [.ok] } ∧
      exec (.cfgRd (0x0401 + 2 * k)) s = .next { s with
        dout := s.dout ++ [(s.frm.refSof.getD k C0).im], stat := s.stat ++ [.ok] }) ∧
    ∀ k, k < 64 →
      exec (.cfgRd (0x0480 + 2 * k)) s = .next { s with
        dout := s.dout ++ [(s.frm.refPlsc.getD k C0).re], stat := s.stat ++ [.ok] } ∧
      exec (.cfgRd (0x0481 + 2 * k)) s = .next { s with
        dout := s.dout ++ [(s.frm.refPlsc.getD k C0).im], stat := s.stat ++ [.ok] }

/-- 10_state.md R50: the occupied address ranges are exactly those of the rule, no two addresses name the same
register, and each address names the register of its row. -/
def Obligations.RegisterAddresses : Prop :=
  (∀ a : Nat, (cfgRegAt a).isSome = true ↔
    a ≤ 0x0003 ∨ (0x0008 ≤ a ∧ a ≤ 0x000B) ∨ (0x0100 ≤ a ∧ a ≤ 0x0104) ∨ (0x0108 ≤ a ∧ a ≤ 0x010E) ∨
    (0x0110 ≤ a ∧ a ≤ 0x0114) ∨ a = 0x0118 ∨ (0x011C ≤ a ∧ a ≤ 0x011F) ∨ (0x0200 ≤ a ∧ a ≤ 0x0204) ∨
    (0x0208 ≤ a ∧ a ≤ 0x020C) ∨ (0x0300 ≤ a ∧ a ≤ 0x0301) ∨ (0x0308 ≤ a ∧ a ≤ 0x030B) ∨
    (0x0400 ≤ a ∧ a ≤ 0x0431) ∨ (0x0480 ≤ a ∧ a ≤ 0x04FF) ∨ a = 0x0500) ∧
  (∀ (a b : Nat) (r : CfgReg), cfgRegAt a = some r → cfgRegAt b = some r → a = b) ∧
  (∀ p ∈ ([
      (0x0000, .sysId), (0x0001, .sysPhase), (0x0002, .sysFaultLast), (0x0003, .sysFaultMask), (0x0008, .cfgOsf),
      (0x0009, .cfgNsym), (0x000A, .cfgOringCap), (0x000B, .cfgGainmode), (0x0100, .garZeta), (0x0101, .garBn),
      (0x0102, .garKd), (0x0103, .garKp), (0x0104, .garKi), (0x0108, .garMu), (0x0109, .garStrobe),
      (0x010A, .garSymRe), (0x010B, .garSymIm), (0x010C, .garOvf), (0x010D, .garUdf), (0x010E, .garFill),
      (0x0110, .garNco), (0x0111, .garLfState), (0x0112, .garLfOut), (0x0113, .garTedErr), (0x0114, .garSh),
      (0x0118, .farMu), (0x011C, .farB0), (0x011D, .farB1), (0x011E, .farB2), (0x011F, .farB3), (0x0200, .cfrZeta),
      (0x0201, .cfrBn), (0x0202, .cfrKd), (0x0203, .cfrKp), (0x0204, .cfrKi), (0x0208, .cfrActive),
      (0x0209, .cfrFreq), (0x020A, .cfrTheta), (0x020B, .cfrLfState), (0x020C, .cfrErr), (0x0300, .frmAlpha),
      (0x0301, .frmTrigger), (0x0308, .frmDelay), (0x0309, .frmFlag), (0x030A, .frmTri), (0x030B, .frmMaxIdx),
      (0x0500, .synSymIdx)] : List (Nat × CfgReg)),
    cfgRegAt p.1 = some p.2) ∧
  (∀ k, k < 25 → cfgRegAt (0x0400 + 2 * k) = some (.refSofRe k) ∧ cfgRegAt (0x0401 + 2 * k) = some (.refSofIm k)) ∧
  ∀ k, k < 64 → cfgRegAt (0x0480 + 2 * k) = some (.refPlscRe k) ∧ cfgRegAt (0x0481 + 2 * k) = some (.refPlscIm k)

/-- 46_numerics.md R263, 10_state.md R52: the two counters read as `min(counter, 2^32 - 1)`. -/
def Obligations.CountersReadSaturated : Prop :=
  ∀ s : State, (cfgRead .garOvf s).toNat = min s.gar.ovfCnt (2 ^ 32 - 1) ∧
    (cfgRead .garUdf s).toNat = min s.gar.udfCnt (2 ^ 32 - 1)

/-! Arithmetic -/

/-- 46_numerics.md R260: each of `+R −R ×R /R` on finite values returns, where its result is finite, a value nearest to
the exact result, and an even pattern where another value is equally near. -/
def Obligations.ArithmeticIsNearest : Prop :=
  ∀ (a b r : Real32) (x : ℚ), isFinite a = true → isFinite b = true → isFinite r = true →
    (r = rAdd a b ∧ x = valueOf a + valueOf b) ∨ (r = rSub a b ∧ x = valueOf a - valueOf b) ∨
    (r = rMul a b ∧ x = valueOf a * valueOf b) ∨
    (r = rDiv a b ∧ isZero b = false ∧ x = valueOf a / valueOf b) →
    ∀ y : Real32, isFinite y = true →
      |valueOf r - x| ≤ |valueOf y - x| ∧
      (valueOf y ≠ valueOf r → |valueOf y - x| = |valueOf r - x| → r.toNat % 2 = 0)

/-- 46_numerics.md R265: `sqrtR` of a value that is not negative is a value nearest to the exact square root. -/
def Obligations.SquareRootIsNearest : Prop :=
  ∀ v : Real32, isFinite v = true → 0 ≤ valueOf v →
    isFinite (rSqrt v) = true ∧
    ∀ y : Real32, isFinite y = true →
      |((valueOf (rSqrt v) : ℚ) : ℝ) - Real.sqrt ((valueOf v : ℚ) : ℝ)| ≤
        |((valueOf y : ℚ) : ℝ) - Real.sqrt ((valueOf v : ℚ) : ℝ)|

/-- 46_numerics.md R266 (a): the four quarter points are exact. -/
def Obligations.QuarterPoints : Prop :=
  cos2pi rZero = rOne ∧ sin2pi rZero = rZero ∧ cos2pi rQuarter = rZero ∧ sin2pi rQuarter = rOne ∧
  cos2pi rHalf = rNegOne ∧ sin2pi rHalf = rZero ∧ cos2pi rThreeQuarters = rZero ∧ sin2pi rThreeQuarters = rNegOne

/-- 46_numerics.md R266 (b), 42_coarse_freq.md R171: for every finite phase, `cos2pi` and `sin2pi` are finite and lie within
one unit in the last place of the exact real cosine and sine, whatever value an implementation proposes. The unit is the
distance of the two neighbouring values `a`, `b` of `R` with the exact magnitude from `a` up to below `b`, which is the
model's choice (assumption log 3); that the bound holds outside [0, 1) too is assumption log 4. -/
def Obligations.AdmittedTrigWithinOneUlp : Prop :=
  ∀ t : Real32, isFinite t = true →
    let c := Real.cos (2 * Real.pi * ((valueOf t : ℚ) : ℝ))
    let z := Real.sin (2 * Real.pi * ((valueOf t : ℚ) : ℝ))
    isFinite (cos2pi t) = true ∧ isFinite (sin2pi t) = true ∧
    ∀ a b : Real32, signBit a = false → isFinite a = true → isFinite b = true → b.toNat = a.toNat + 1 →
      (((valueOf a : ℚ) : ℝ) ≤ |c| → |c| < ((valueOf b : ℚ) : ℝ) →
        |((valueOf (cos2pi t) : ℚ) : ℝ) - c| ≤ ((valueOf b - valueOf a : ℚ) : ℝ)) ∧
      (((valueOf a : ℚ) : ℝ) ≤ |z| → |z| < ((valueOf b : ℚ) : ℝ) →
        |((valueOf (sin2pi t) : ℚ) : ℝ) - z| ≤ ((valueOf b - valueOf a : ℚ) : ℝ))

/-! Loop design -/

/-- 45_system_ops.md R238: the four equations of `lf_design`, in their order, for every value; `toR` is exact on 1 to 32
and the constants have their values. The equations are a parameter of the spec, taken at its default (assumption log
7). -/
def Obligations.LoopDesignEquations : Prop :=
  (∀ (zeta bn kd : Real32) (n : Nat) (k0 : Real32),
    let th := rDiv (rDiv bn (toR n)) (rAdd zeta (rDiv rQuarter zeta))
    let d := rMul (rMul (rAdd (rAdd rOne (rMul (rMul rTwo zeta) th)) (rMul th th)) k0) kd
    lfDesign zeta bn kd n k0 = { kp := rDiv (rMul (rMul rFour zeta) th) d, ki := rDiv (rMul rFour (rMul th th)) d }) ∧
  (∀ n : Nat, 1 ≤ n → n ≤ 32 → isFinite (toR n) = true ∧ valueOf (toR n) = n) ∧
  valueOf rQuarter = 1 / 4 ∧ valueOf rOne = 1 ∧ valueOf rTwo = 2 ∧ valueOf rFour = 4 ∧ valueOf rNegOne = -1
end

