-- ==== Sys2Proof/Laws/State.lean ====
section
/-! SUPPORT. One lemma per field per named update of State, each true by rfl. -/

namespace Sys2Proof.Machine

section pushStatFields
variable (st : Status) (s : State)
@[simp] theorem pushStat_far : (pushStat st s).far = s.far := rfl
@[simp] theorem pushStat_gar : (pushStat st s).gar = s.gar := rfl
@[simp] theorem pushStat_cfr : (pushStat st s).cfr = s.cfr := rfl
@[simp] theorem pushStat_frm : (pushStat st s).frm = s.frm := rfl
@[simp] theorem pushStat_syn : (pushStat st s).syn = s.syn := rfl
@[simp] theorem pushStat_sys : (pushStat st s).sys = s.sys := rfl
@[simp] theorem pushStat_rst : (pushStat st s).rst = s.rst := rfl
@[simp] theorem pushStat_cmd : (pushStat st s).cmd = s.cmd := rfl
@[simp] theorem pushStat_din : (pushStat st s).din = s.din := rfl
@[simp] theorem pushStat_dout : (pushStat st s).dout = s.dout := rfl
@[simp] theorem pushStat_stat : (pushStat st s).stat = s.stat ++ [st] := rfl
@[simp] theorem pushStat_mf : (pushStat st s).mf = s.mf := rfl
end pushStatFields

section takeFaultFields
variable (st : Status) (s : State)
@[simp] theorem takeFault_far : (takeFault st s).far = s.far := rfl
@[simp] theorem takeFault_gar : (takeFault st s).gar = s.gar := rfl
@[simp] theorem takeFault_cfr : (takeFault st s).cfr = s.cfr := rfl
@[simp] theorem takeFault_frm : (takeFault st s).frm = s.frm := rfl
@[simp] theorem takeFault_syn : (takeFault st s).syn = s.syn := rfl
@[simp] theorem takeFault_sys : (takeFault st s).sys = recordFault st s.sys := rfl
@[simp] theorem takeFault_rst : (takeFault st s).rst = s.rst := rfl
@[simp] theorem takeFault_cmd : (takeFault st s).cmd = s.cmd := rfl
@[simp] theorem takeFault_din : (takeFault st s).din = s.din := rfl
@[simp] theorem takeFault_dout : (takeFault st s).dout = s.dout := rfl
@[simp] theorem takeFault_stat : (takeFault st s).stat = s.stat ++ [st] := rfl
@[simp] theorem takeFault_mf : (takeFault st s).mf = s.mf := rfl
end takeFaultFields

section pushWordsFields
variable (ws : List Word) (s : State)
@[simp] theorem pushWords_far : (pushWords ws s).far = s.far := rfl
@[simp] theorem pushWords_gar : (pushWords ws s).gar = s.gar := rfl
@[simp] theorem pushWords_cfr : (pushWords ws s).cfr = s.cfr := rfl
@[simp] theorem pushWords_frm : (pushWords ws s).frm = s.frm := rfl
@[simp] theorem pushWords_syn : (pushWords ws s).syn = s.syn := rfl
@[simp] theorem pushWords_sys : (pushWords ws s).sys = s.sys := rfl
@[simp] theorem pushWords_rst : (pushWords ws s).rst = s.rst := rfl
@[simp] theorem pushWords_cmd : (pushWords ws s).cmd = s.cmd := rfl
@[simp] theorem pushWords_din : (pushWords ws s).din = s.din := rfl
@[simp] theorem pushWords_dout : (pushWords ws s).dout = s.dout ++ ws := rfl
@[simp] theorem pushWords_stat : (pushWords ws s).stat = s.stat := rfl
@[simp] theorem pushWords_mf : (pushWords ws s).mf = s.mf := rfl
end pushWordsFields

section popWordFields
variable (s : State)
@[simp] theorem popWord_far : (popWord s).2.far = s.far := rfl
@[simp] theorem popWord_gar : (popWord s).2.gar = s.gar := rfl
@[simp] theorem popWord_cfr : (popWord s).2.cfr = s.cfr := rfl
@[simp] theorem popWord_frm : (popWord s).2.frm = s.frm := rfl
@[simp] theorem popWord_syn : (popWord s).2.syn = s.syn := rfl
@[simp] theorem popWord_sys : (popWord s).2.sys = s.sys := rfl
@[simp] theorem popWord_rst : (popWord s).2.rst = s.rst := rfl
@[simp] theorem popWord_cmd : (popWord s).2.cmd = s.cmd := rfl
@[simp] theorem popWord_din : (popWord s).2.din = s.din.tail := rfl
@[simp] theorem popWord_dout : (popWord s).2.dout = s.dout := rfl
@[simp] theorem popWord_stat : (popWord s).2.stat = s.stat := rfl
@[simp] theorem popWord_mf : (popWord s).2.mf = s.mf := rfl
end popWordFields

section popCFields
variable (s : State)
@[simp] theorem popC_far : (popC s).2.far = s.far := rfl
@[simp] theorem popC_gar : (popC s).2.gar = s.gar := rfl
@[simp] theorem popC_cfr : (popC s).2.cfr = s.cfr := rfl
@[simp] theorem popC_frm : (popC s).2.frm = s.frm := rfl
@[simp] theorem popC_syn : (popC s).2.syn = s.syn := rfl
@[simp] theorem popC_sys : (popC s).2.sys = s.sys := rfl
@[simp] theorem popC_rst : (popC s).2.rst = s.rst := rfl
@[simp] theorem popC_cmd : (popC s).2.cmd = s.cmd := rfl
@[simp] theorem popC_din : (popC s).2.din = s.din.drop 2 := rfl
@[simp] theorem popC_dout : (popC s).2.dout = s.dout := rfl
@[simp] theorem popC_stat : (popC s).2.stat = s.stat := rfl
@[simp] theorem popC_mf : (popC s).2.mf = s.mf := rfl
end popCFields

section popBlockFields
variable (n : Nat) (s : State)
@[simp] theorem popBlock_far : (popBlock n s).2.far = s.far := rfl
@[simp] theorem popBlock_gar : (popBlock n s).2.gar = s.gar := rfl
@[simp] theorem popBlock_cfr : (popBlock n s).2.cfr = s.cfr := rfl
@[simp] theorem popBlock_frm : (popBlock n s).2.frm = s.frm := rfl
@[simp] theorem popBlock_syn : (popBlock n s).2.syn = s.syn := rfl
@[simp] theorem popBlock_sys : (popBlock n s).2.sys = s.sys := rfl
@[simp] theorem popBlock_rst : (popBlock n s).2.rst = s.rst := rfl
@[simp] theorem popBlock_cmd : (popBlock n s).2.cmd = s.cmd := rfl
@[simp] theorem popBlock_din : (popBlock n s).2.din = s.din.drop (2 * n) := rfl
@[simp] theorem popBlock_dout : (popBlock n s).2.dout = s.dout := rfl
@[simp] theorem popBlock_stat : (popBlock n s).2.stat = s.stat := rfl
@[simp] theorem popBlock_mf : (popBlock n s).2.mf = s.mf := rfl
end popBlockFields

section farResetFields
variable (s : State)
@[simp] theorem farReset_far : (farReset s).far = Far.reset := rfl
@[simp] theorem farReset_gar : (farReset s).gar = s.gar := rfl
@[simp] theorem farReset_cfr : (farReset s).cfr = s.cfr := rfl
@[simp] theorem farReset_frm : (farReset s).frm = s.frm := rfl
@[simp] theorem farReset_syn : (farReset s).syn = s.syn := rfl
@[simp] theorem farReset_sys : (farReset s).sys = s.sys := rfl
@[simp] theorem farReset_rst : (farReset s).rst = s.rst := rfl
@[simp] theorem farReset_cmd : (farReset s).cmd = s.cmd := rfl
@[simp] theorem farReset_din : (farReset s).din = s.din := rfl
@[simp] theorem farReset_dout : (farReset s).dout = s.dout := rfl
@[simp] theorem farReset_stat : (farReset s).stat = s.stat := rfl
@[simp] theorem farReset_mf : (farReset s).mf = s.mf := rfl
end farResetFields

section garResetFields
variable (s : State)
@[simp] theorem garReset_far : (garReset s).far = Far.reset := rfl
@[simp] theorem garReset_gar : (garReset s).gar = garCleared (osf s) s.gar := rfl
@[simp] theorem garReset_cfr : (garReset s).cfr = s.cfr := rfl
@[simp] theorem garReset_frm : (garReset s).frm = s.frm := rfl
@[simp] theorem garReset_syn : (garReset s).syn = s.syn := rfl
@[simp] theorem garReset_sys : (garReset s).sys = s.sys := rfl
@[simp] theorem garReset_rst : (garReset s).rst = s.rst := rfl
@[simp] theorem garReset_cmd : (garReset s).cmd = s.cmd := rfl
@[simp] theorem garReset_din : (garReset s).din = s.din := rfl
@[simp] theorem garReset_dout : (garReset s).dout = s.dout := rfl
@[simp] theorem garReset_stat : (garReset s).stat = s.stat := rfl
@[simp] theorem garReset_mf : (garReset s).mf = s.mf := rfl
end garResetFields

section cfrResetFields
variable (s : State)
@[simp] theorem cfrReset_far : (cfrReset s).far = s.far := rfl
@[simp] theorem cfrReset_gar : (cfrReset s).gar = s.gar := rfl
@[simp] theorem cfrReset_cfr : (cfrReset s).cfr = cfrCleared s.cfr := rfl
@[simp] theorem cfrReset_frm : (cfrReset s).frm = s.frm := rfl
@[simp] theorem cfrReset_syn : (cfrReset s).syn = s.syn := rfl
@[simp] theorem cfrReset_sys : (cfrReset s).sys = s.sys := rfl
@[simp] theorem cfrReset_rst : (cfrReset s).rst = s.rst := rfl
@[simp] theorem cfrReset_cmd : (cfrReset s).cmd = s.cmd := rfl
@[simp] theorem cfrReset_din : (cfrReset s).din = s.din := rfl
@[simp] theorem cfrReset_dout : (cfrReset s).dout = s.dout := rfl
@[simp] theorem cfrReset_stat : (cfrReset s).stat = s.stat := rfl
@[simp] theorem cfrReset_mf : (cfrReset s).mf = s.mf := rfl
end cfrResetFields

section frmResetFields
variable (s : State)
@[simp] theorem frmReset_far : (frmReset s).far = s.far := rfl
@[simp] theorem frmReset_gar : (frmReset s).gar = s.gar := rfl
@[simp] theorem frmReset_cfr : (frmReset s).cfr = s.cfr := rfl
@[simp] theorem frmReset_frm : (frmReset s).frm = frmCleared (nSym s) s.frm := rfl
@[simp] theorem frmReset_syn : (frmReset s).syn = s.syn := rfl
@[simp] theorem frmReset_sys : (frmReset s).sys = s.sys := rfl
@[simp] theorem frmReset_rst : (frmReset s).rst = s.rst := rfl
@[simp] theorem frmReset_cmd : (frmReset s).cmd = s.cmd := rfl
@[simp] theorem frmReset_din : (frmReset s).din = s.din := rfl
@[simp] theorem frmReset_dout : (frmReset s).dout = s.dout := rfl
@[simp] theorem frmReset_stat : (frmReset s).stat = s.stat := rfl
@[simp] theorem frmReset_mf : (frmReset s).mf = s.mf := rfl
end frmResetFields

section synResetFields
variable (s : State)
@[simp] theorem synReset_far : (synReset s).far = Far.reset := rfl
@[simp] theorem synReset_gar : (synReset s).gar = garCleared (osf s) s.gar := rfl
@[simp] theorem synReset_cfr : (synReset s).cfr = cfrCleared s.cfr := rfl
@[simp] theorem synReset_frm : (synReset s).frm = s.frm := rfl
@[simp] theorem synReset_syn : (synReset s).syn = { symIdx := 0 } := rfl
@[simp] theorem synReset_sys : (synReset s).sys = s.sys := rfl
@[simp] theorem synReset_rst : (synReset s).rst = s.rst := rfl
@[simp] theorem synReset_cmd : (synReset s).cmd = s.cmd := rfl
@[simp] theorem synReset_din : (synReset s).din = s.din := rfl
@[simp] theorem synReset_dout : (synReset s).dout = s.dout := rfl
@[simp] theorem synReset_stat : (synReset s).stat = s.stat := rfl
@[simp] theorem synReset_mf : (synReset s).mf = mfReset s.mf := rfl
end synResetFields

section sysResetFields
variable (s : State)
@[simp] theorem sysReset_far : (sysReset s).far = Far.reset := rfl
@[simp] theorem sysReset_gar : (sysReset s).gar = garCleared (osf s) s.gar := rfl
@[simp] theorem sysReset_cfr : (sysReset s).cfr = cfrCleared s.cfr := rfl
@[simp] theorem sysReset_frm : (sysReset s).frm = frmCleared (nSym s) s.frm := rfl
@[simp] theorem sysReset_syn : (sysReset s).syn = { symIdx := 0 } := rfl
@[simp] theorem sysReset_sys : (sysReset s).sys = s.sys := rfl
@[simp] theorem sysReset_rst : (sysReset s).rst = s.rst := rfl
@[simp] theorem sysReset_cmd : (sysReset s).cmd = s.cmd := rfl
@[simp] theorem sysReset_din : (sysReset s).din = s.din := rfl
@[simp] theorem sysReset_dout : (sysReset s).dout = s.dout := rfl
@[simp] theorem sysReset_stat : (sysReset s).stat = s.stat := rfl
@[simp] theorem sysReset_mf : (sysReset s).mf = mfReset s.mf := rfl
end sysResetFields

section hardwareResetFields
variable (s : State)
@[simp] theorem hardwareReset_far : (hardwareReset s).far = Far.reset := rfl
@[simp] theorem hardwareReset_gar : (hardwareReset s).gar = Gar.reset := rfl
@[simp] theorem hardwareReset_cfr : (hardwareReset s).cfr = Cfr.reset := rfl
@[simp] theorem hardwareReset_frm : (hardwareReset s).frm = Frm.reset := rfl
@[simp] theorem hardwareReset_syn : (hardwareReset s).syn = Syn.reset := rfl
@[simp] theorem hardwareReset_sys : (hardwareReset s).sys = Sys.reset := rfl
@[simp] theorem hardwareReset_rst : (hardwareReset s).rst = false := rfl
@[simp] theorem hardwareReset_cmd : (hardwareReset s).cmd = s.cmd := rfl
@[simp] theorem hardwareReset_din : (hardwareReset s).din = [] := rfl
@[simp] theorem hardwareReset_dout : (hardwareReset s).dout = [] := rfl
@[simp] theorem hardwareReset_stat : (hardwareReset s).stat = [] := rfl
@[simp] theorem hardwareReset_mf : (hardwareReset s).mf = s.mf := rfl
end hardwareResetFields

section builtFields
variable (s : State)
@[simp] theorem built_far : (built s).far = Far.reset := rfl
@[simp] theorem built_gar : (built s).gar = garCleared (osf s) { s.gar with kp := (garGains s).kp, ki := (garGains s).ki } := rfl
@[simp] theorem built_cfr : (built s).cfr = cfrCleared { s.cfr with kp := (cfrGains s).kp, ki := (cfrGains s).ki } := rfl
@[simp] theorem built_frm : (built s).frm = frmCleared (nSym s) s.frm := rfl
@[simp] theorem built_syn : (built s).syn = { symIdx := 0 } := rfl
@[simp] theorem built_sys : (built s).sys = { s.sys with phase := .run } := rfl
@[simp] theorem built_rst : (built s).rst = s.rst := rfl
@[simp] theorem built_cmd : (built s).cmd = s.cmd := rfl
@[simp] theorem built_din : (built s).din = s.din := rfl
@[simp] theorem built_dout : (built s).dout = s.dout := rfl
@[simp] theorem built_stat : (built s).stat = s.stat := rfl
@[simp] theorem built_mf : (built s).mf = mfReset s.mf := rfl
end builtFields

end Sys2Proof.Machine
end

