-- ==== Sys2Proof/Laws/Ops.lean ====
section
/-! SUPPORT. What each shared operation of Machine/Ops.lean can do, said once; later proofs cite these lemmas and do
not unfold the operation. -/

namespace Sys2Proof.Machine

/-- A permitted operation whose words are all on `DIN` runs its rule. -/
theorem runOp_runs {i : Instr} {body : State → State} {s : State} (hp : permittedIn i s.sys.phase = true)
    (hd : dinWords s i ≤ s.din.length) : runOp i body s = .next (body s) := by
  simp [runOp, hp, Nat.not_lt.mpr hd]

/-- A permitted operation whose words are not all on `DIN` has no step. -/
theorem runOp_waits {i : Instr} {body : State → State} {s : State} (hp : permittedIn i s.sys.phase = true)
    (hd : s.din.length < dinWords s i) : runOp i body s = .fault .waitingForDin := by
  simp [runOp, hp, hd]

/-- An operation outside its phases raises `BadAccess`. -/
theorem runOp_forbidden {i : Instr} {body : State → State} {s : State} (hp : permittedIn i s.sys.phase = false) :
    runOp i body s = .next (takeFault .badAccess s) := by
  simp [runOp, hp]

/-- Everything `runOp` can answer: the rule's result, the `BadAccess` of the phase, or no step. It never refuses. -/
theorem runOp_cases (i : Instr) (body : State → State) (s : State) :
    (permittedIn i s.sys.phase = true ∧ dinWords s i ≤ s.din.length ∧ runOp i body s = .next (body s)) ∨
    (permittedIn i s.sys.phase = true ∧ s.din.length < dinWords s i ∧ runOp i body s = .fault .waitingForDin) ∨
    (permittedIn i s.sys.phase = false ∧ runOp i body s = .next (takeFault .badAccess s)) := by
  cases hp : permittedIn i s.sys.phase with
  | false => exact .inr (.inr ⟨rfl, runOp_forbidden hp⟩)
  | true =>
    rcases Nat.lt_or_ge s.din.length (dinWords s i) with hd | hd
    · exact .inr (.inl ⟨rfl, hd, runOp_waits hp hd⟩)
    · exact .inl ⟨rfl, hd, runOp_runs hp hd⟩

/-- If `runOp` answers a next state, it is the rule's or that of the phase's `BadAccess`. -/
theorem runOp_next {i : Instr} {body : State → State} {s t : State} (h : runOp i body s = .next t) :
    (permittedIn i s.sys.phase = true ∧ dinWords s i ≤ s.din.length ∧ t = body s) ∨
    (permittedIn i s.sys.phase = false ∧ t = takeFault .badAccess s) := by
  rcases runOp_cases i body s with ⟨hp, hd, e⟩ | ⟨_, _, e⟩ | ⟨hp, e⟩
  · rw [e] at h
    cases h
    exact .inl ⟨hp, hd, rfl⟩
  · rw [e] at h
    cases h
  · rw [e] at h
    cases h
    exact .inr ⟨hp, rfl⟩

@[simp] theorem finish_ok (s : State) : finish .ok s = pushStat .ok s := rfl

theorem finish_fault {st : Status} (h : st ≠ .ok) (s : State) : finish st s = takeFault st s := by
  simp [finish, h]

@[simp] theorem finish_stat (st : Status) (s : State) : (finish st s).stat = s.stat ++ [st] := by
  unfold finish
  split
  · subst_vars
    rfl
  · rfl

/-- The end of an operation touches only `STAT` and SYS. -/
theorem finish_frame (st : Status) (s : State) :
    (finish st s).far = s.far ∧ (finish st s).gar = s.gar ∧ (finish st s).cfr = s.cfr ∧ (finish st s).frm = s.frm ∧
    (finish st s).syn = s.syn ∧ (finish st s).rst = s.rst ∧ (finish st s).cmd = s.cmd ∧ (finish st s).din = s.din ∧
    (finish st s).dout = s.dout ∧ (finish st s).mf = s.mf := by
  unfold finish
  split <;> exact ⟨rfl, rfl, rfl, rfl, rfl, rfl, rfl, rfl, rfl, rfl⟩

@[simp] theorem finish_far (st : Status) (s : State) : (finish st s).far = s.far := (finish_frame st s).1
@[simp] theorem finish_gar (st : Status) (s : State) : (finish st s).gar = s.gar := (finish_frame st s).2.1
@[simp] theorem finish_cfr (st : Status) (s : State) : (finish st s).cfr = s.cfr := (finish_frame st s).2.2.1
@[simp] theorem finish_frm (st : Status) (s : State) : (finish st s).frm = s.frm := (finish_frame st s).2.2.2.1
@[simp] theorem finish_syn (st : Status) (s : State) : (finish st s).syn = s.syn := (finish_frame st s).2.2.2.2.1
@[simp] theorem finish_rst (st : Status) (s : State) : (finish st s).rst = s.rst := (finish_frame st s).2.2.2.2.2.1
@[simp] theorem finish_cmd (st : Status) (s : State) : (finish st s).cmd = s.cmd :=
  (finish_frame st s).2.2.2.2.2.2.1
@[simp] theorem finish_din (st : Status) (s : State) : (finish st s).din = s.din :=
  (finish_frame st s).2.2.2.2.2.2.2.1
@[simp] theorem finish_dout (st : Status) (s : State) : (finish st s).dout = s.dout :=
  (finish_frame st s).2.2.2.2.2.2.2.2.1
@[simp] theorem finish_mf (st : Status) (s : State) : (finish st s).mf = s.mf :=
  (finish_frame st s).2.2.2.2.2.2.2.2.2

/-- SYS at the end of an operation: unchanged for status 0, the fault recorded otherwise. -/
theorem finish_sys (st : Status) (s : State) :
    (finish st s).sys = if st = .ok then s.sys else recordFault st s.sys := by
  unfold finish
  split <;> rfl

/-- Recording a fault touches only the fault registers and, for a `ConfigError`, the phase. -/
theorem recordFault_frame (st : Status) (y : Sys) :
    (recordFault st y).osf = y.osf ∧ (recordFault st y).nsym = y.nsym ∧ (recordFault st y).oringCap = y.oringCap ∧
    (recordFault st y).gainmode = y.gainmode ∧ (recordFault st y).garZeta = y.garZeta ∧
    (recordFault st y).garBn = y.garBn ∧ (recordFault st y).garKd = y.garKd ∧
    (recordFault st y).cfrZeta = y.cfrZeta ∧ (recordFault st y).cfrBn = y.cfrBn ∧
    (recordFault st y).cfrKd = y.cfrKd :=
  ⟨rfl, rfl, rfl, rfl, rfl, rfl, rfl, rfl, rfl, rfl⟩

@[simp] theorem recordFault_faultLast (st : Status) (y : Sys) : (recordFault st y).faultLast = st := rfl

/-- Every fault but `ConfigError` leaves the phase. -/
theorem recordFault_phase {st : Status} (h : st ≠ .configError) (y : Sys) : (recordFault st y).phase = y.phase := by
  simp [recordFault, h]

@[simp] theorem recordFault_configError_phase (y : Sys) : (recordFault .configError y).phase = .failed := rfl

@[simp] theorem takeCommand_nil {s : State} (h : s.cmd = []) : takeCommand s = none := by
  simp [takeCommand, h]

@[simp] theorem takeCommand_cons {s : State} {cw : Word} {rest : List Word} (h : s.cmd = cw :: rest) :
    takeCommand s = some (cw, { s with cmd := rest }) := by
  simp [takeCommand, h]

/-- Everything `step` can do: the `RST` event, no command, an unimplemented word, or the decoded operation. -/
theorem step_cases (s : State) :
    (s.rst = true ∧ step s = .next (hardwareReset s)) ∨
    (s.rst = false ∧ s.cmd = [] ∧ step s = .fault .noCommand) ∨
    (s.rst = false ∧ ∃ cw rest, s.cmd = cw :: rest ∧
      ((∃ e, decode cw = .error e ∧ step s = .next (takeFault .unimplemented { s with cmd := rest })) ∨
       (∃ i, decode cw = .ok i ∧ step s = exec i { s with cmd := rest }))) := by
  cases hr : s.rst with
  | true => exact .inl ⟨rfl, by simp [step, hr]⟩
  | false =>
    cases hc : s.cmd with
    | nil => exact .inr (.inl ⟨rfl, rfl, by simp [step, hr, takeCommand, hc]⟩)
    | cons cw rest =>
      refine .inr (.inr ⟨rfl, cw, rest, rfl, ?_⟩)
      cases hd : decode cw with
      | error e => exact .inl ⟨e, rfl, by simp [step, hr, takeCommand, hc, hd, raiseUnimplemented]⟩
      | ok i => exact .inr ⟨i, rfl, by simp [step, hr, takeCommand, hc, hd]⟩

@[simp] theorem mfStep_passThrough (z : C) : mfStep .passThrough z = (.passThrough, z) := rfl

@[simp] theorem mfReset_passThrough : mfReset .passThrough = .passThrough := rfl

/-- Resetting the matched filter again changes nothing. -/
@[simp] theorem mfReset_mfReset (m : MatchedFilter) : mfReset (mfReset m) = mfReset m := by
  cases m <;> rfl

end Sys2Proof.Machine
end

