-- ==== Sys2Proof/Laws/PerInstr.lean ====
section
/-! SUPPORT. A statement about every operation as syntax, one lemma per constructor: its command word matches its own
row of 30_encoding.md R92, `(cw & mask) = match`. -/

namespace Sys2Proof.Laws

/-- The command word of a well-formed operation matches the row of the operation. -/
def MatchesRow.Statement (i : Instr) : Prop :=
  wellFormed i = true → encode i &&& opcodeMask i = BitVec.ofNat 32 (opcodeOf i)

/-- A 16-bit field added below a 16-bit prefix is masked out again. -/
theorem mask_prefix (p a : Nat) (ha : a < 2 ^ 16) (hp : p < 2 ^ 16) :
    BitVec.ofNat 32 (p * 2 ^ 16 + a) &&& 0xFFFF0000#32 = BitVec.ofNat 32 (p * 2 ^ 16) := by
  have e : BitVec.ofNat 32 (p * 2 ^ 16 + a) = BitVec.ofNat 16 p ++ BitVec.ofNat 16 a := by
    apply BitVec.eq_of_toNat_eq
    rw [BitVec.toNat_append, BitVec.toNat_ofNat, BitVec.toNat_ofNat, BitVec.toNat_ofNat, Nat.mod_eq_of_lt hp,
      Nat.mod_eq_of_lt ha, ← Nat.shiftLeft_add_eq_or_of_lt ha, Nat.shiftLeft_eq]
    omega
  have e0 : BitVec.ofNat 32 (p * 2 ^ 16) = BitVec.ofNat 16 p ++ 0#16 := by
    apply BitVec.eq_of_toNat_eq
    rw [BitVec.toNat_append, BitVec.toNat_ofNat, BitVec.toNat_ofNat, Nat.mod_eq_of_lt hp]
    simp [Nat.shiftLeft_eq]
    omega
  have em : (0xFFFF0000#32) = BitVec.allOnes 16 ++ 0#16 := by decide
  rw [e, e0, em, BitVec.and_append, BitVec.and_allOnes, BitVec.and_zero]

theorem MatchesRow.sysBuild : MatchesRow.Statement .sysBuild := fun _ => by decide
theorem MatchesRow.sysReset : MatchesRow.Statement .sysReset := fun _ => by decide
theorem MatchesRow.cfgWr (a : Nat) : MatchesRow.Statement (.cfgWr a) := fun h => by
  simpa [encode, opcodeOf, immOf, opcodeMask] using mask_prefix 0x0500 a (by simpa [wellFormed] using h) (by decide)
theorem MatchesRow.cfgRd (a : Nat) : MatchesRow.Statement (.cfgRd a) := fun h => by
  simpa [encode, opcodeOf, immOf, opcodeMask] using mask_prefix 0x0600 a (by simpa [wellFormed] using h) (by decide)
theorem MatchesRow.farStep : MatchesRow.Statement .farStep := fun _ => by decide
theorem MatchesRow.farSetmu : MatchesRow.Statement .farSetmu := fun _ => by decide
theorem MatchesRow.farReset : MatchesRow.Statement .farReset := fun _ => by decide
theorem MatchesRow.garStep : MatchesRow.Statement .garStep := fun _ => by decide
theorem MatchesRow.garSync : MatchesRow.Statement .garSync := fun _ => by decide
theorem MatchesRow.garExtract : MatchesRow.Statement .garExtract := fun _ => by decide
theorem MatchesRow.garReset : MatchesRow.Statement .garReset := fun _ => by decide
theorem MatchesRow.cfrStep : MatchesRow.Statement .cfrStep := fun _ => by decide
theorem MatchesRow.cfrSync : MatchesRow.Statement .cfrSync := fun _ => by decide
theorem MatchesRow.cfrUpd : MatchesRow.Statement .cfrUpd := fun _ => by decide
theorem MatchesRow.cfrReset : MatchesRow.Statement .cfrReset := fun _ => by decide
theorem MatchesRow.frmSync : MatchesRow.Statement .frmSync := fun _ => by decide
theorem MatchesRow.frmReset : MatchesRow.Statement .frmReset := fun _ => by decide
theorem MatchesRow.synSync : MatchesRow.Statement .synSync := fun _ => by decide
theorem MatchesRow.synReset : MatchesRow.Statement .synReset := fun _ => by decide

end Sys2Proof.Laws
end

