-- ==== Sys2Proof/Laws/Reals.lean ====
section
/-! SUPPORT. First facts about the arithmetic: NaNs stay NaNs, a NaN compares with nothing, the pinned values of the
trigonometric functions. -/

namespace Sys2Proof.Machine

/-- Whatever an implementation proposes, a produced NaN is a NaN. -/
@[simp] theorem isNaN_freeNaN (src : NanSource) (a b : Real32) : isNaN (freeNaN src a b) = true := by
  unfold freeNaN
  split
  · assumption
  · decide

theorem rAdd_nan {a b : Real32} (h : isNaN a = true ∨ isNaN b = true) : isNaN (rAdd a b) = true := by
  have : isNaN a = true ∨ isNaN b = true := h
  simp [rAdd, addAs, this]

theorem rMul_nan {a b : Real32} (h : isNaN a = true ∨ isNaN b = true) : isNaN (rMul a b) = true := by
  have : isNaN a = true ∨ isNaN b = true := h
  simp [rMul, this]

theorem rDiv_nan {a b : Real32} (h : isNaN a = true ∨ isNaN b = true) : isNaN (rDiv a b) = true := by
  have : isNaN a = true ∨ isNaN b = true := h
  simp [rDiv, this]

/-- A comparison with a NaN is false (46_numerics.md R268). -/
theorem rLt_nan {a b : Real32} (h : isNaN a = true ∨ isNaN b = true) : rLt a b = false := by
  rcases h with h | h <;> simp [rLt, h]

/-- `maxR` returns its second argument when either is a NaN (46_numerics.md R268). -/
theorem rMax_nan {a b : Real32} (h : isNaN a = true ∨ isNaN b = true) : rMax a b = b := by
  simp [rMax, rGt, rLt_nan h.symm]

/-- No value is below itself. -/
@[simp] theorem rLt_irrefl (a : Real32) : rLt a a = false := by
  simp [rLt]

theorem rLt_trans {a b c : Real32} (h₁ : rLt a b = true) (h₂ : rLt b c = true) : rLt a c = true := by
  simp only [rLt, Bool.and_eq_true, Bool.not_eq_true', decide_eq_true_eq] at *
  exact ⟨⟨h₁.1.1, h₂.1.2⟩, h₁.2.trans h₂.2⟩

/-- Everything the sinusoids can return off the pinned points: the proposed pattern, where it is admitted, else the
rounded lower end of the enclosure. -/
theorem pickWithin_cases (neg : Bool) (e : Enclosure) (p : Real32) :
    (withinUlp neg e p = true ∧ pickWithin neg e p = p) ∨
    (withinUlp neg e p = false ∧ pickWithin neg e p = roundRatio neg (e.low.num.toNat * 2 ^ 149) e.low.den) := by
  cases h : withinUlp neg e p <;> simp [pickWithin, h]

/-- An admitted pattern is a finite value. -/
theorem isFinite_of_withinUlp {neg : Bool} {e : Enclosure} {p : Real32} (h : withinUlp neg e p = true) :
    isFinite p = true := by
  simp only [withinUlp, Bool.and_eq_true] at h
  exact h.1

@[simp] theorem cos2pi_zero : cos2pi rZero = rOne := by simp [cos2pi, isFinite, isZero, magBits, infBits, rZero]

@[simp] theorem sin2pi_zero : sin2pi rZero = rZero := by simp [sin2pi, isFinite, isZero, magBits, infBits, rZero]

/-- The sinusoids of a NaN or an infinity are NaNs. -/
theorem trig_of_not_finite {t : Real32} (h : isFinite t = false) :
    isNaN (cos2pi t) = true ∧ isNaN (sin2pi t) = true := by
  simp [cos2pi, sin2pi, h]

@[simp] theorem rFloor_of_not_finite {v : Real32} (h : isFinite v = false) : rFloor v = v := by
  simp [rFloor, h]

end Sys2Proof.Machine
end

