-- ==== Sys2Proof/Laws/Stream.lean ====
section
/-! SUPPORT. Streams and windows: the samples of a block, the lengths of what is popped, pushed, shifted and
drained. -/

namespace Sys2Proof.Machine

@[simp] theorem wordsOf_nil : wordsOf [] = [] := rfl

@[simp] theorem wordsOf_cons (z : C) (zs : List C) : wordsOf (z :: zs) = z.re :: z.im :: wordsOf zs := rfl

theorem wordsOf_append (xs ys : List C) : wordsOf (xs ++ ys) = wordsOf xs ++ wordsOf ys := by
  simp [wordsOf]

/-- A block of `n` samples is `2 n` words. -/
@[simp] theorem length_wordsOf (zs : List C) : (wordsOf zs).length = 2 * zs.length := by
  induction zs with
  | nil => rfl
  | cons z zs ih => simp [ih]; omega

/-- Popping the samples that were pushed gives them back, whatever stands behind them. -/
theorem samplesOf_wordsOf (xs : List C) (rest : List Word) : samplesOf xs.length (wordsOf xs ++ rest) = xs := by
  induction xs with
  | nil => rfl
  | cons z zs ih => simp [samplesOf, ih]

/-- Behind a block of `n` samples stands what stood behind its words. -/
theorem drop_wordsOf (xs : List C) (rest : List Word) : (wordsOf xs ++ rest).drop (2 * xs.length) = rest := by
  rw [← length_wordsOf, List.drop_left]

/-- A stream of at least `2 n` words holds `n` samples. -/
theorem length_samplesOf : ∀ (n : Nat) (ws : List Word), 2 * n ≤ ws.length → (samplesOf n ws).length = n
  | 0, _, _ => by simp [samplesOf]
  | n + 1, [], h => by simp at h
  | n + 1, [_], h => by simp at h; omega
  | n + 1, _ :: _ :: ws, h => by
    simp only [List.length_cons] at h
    simp [samplesOf, length_samplesOf n ws (by omega)]

/-- The block operations pop whole blocks: samples and rest of a stream that begins with the block. -/
theorem popBlock_block {s : State} {xs : List C} {rest : List Word} (h : s.din = wordsOf xs ++ rest) :
    popBlock xs.length s = (xs, { s with din := rest }) := by
  simp [popBlock, h, samplesOf_wordsOf]

/-- `popC` on a stream of two words or more. -/
theorem popC_sample {s : State} {re im : Word} {rest : List Word} (h : s.din = re :: im :: rest) :
    popC s = ({ re := re, im := im }, { s with din := rest }) := by
  simp [popC, h]

/-- `popWord` on a stream of one word or more. -/
theorem popWord_word {s : State} {v : Word} {rest : List Word} (h : s.din = v :: rest) :
    popWord s = (v, { s with din := rest }) := by
  simp [popWord, h]

@[simp] theorem length_shiftIn {α : Type} (w : List α) (v : α) : (shiftIn w v).length = w.length := by
  simp [shiftIn]

@[simp] theorem length_shiftInFront {α : Type} (w : List α) (v : α) : (shiftInFront w v).length = w.length := by
  simp [shiftInFront]

/-- A drain always delivers exactly `n` symbols. -/
@[simp] theorem length_drained (n : Nat) (ring : List C) : (drained n ring).length = n := by
  simp [drained]
  omega

/-- Where enough symbols are available, the drain is the oldest `n` of them. -/
theorem drained_of_le {n : Nat} {ring : List C} (h : n ≤ ring.length) : drained n ring = ring.take n := by
  simp [drained, Nat.sub_eq_zero_of_le h]

end Sys2Proof.Machine
end

