-- ==== Sys2Proof/Laws/Units.lean ====
section
/-! SUPPORT. What the internal procedures of the units change and what they leave: one group of lemmas per
procedure. -/

namespace Sys2Proof.Machine

@[simp] theorem farSetMu_h (mu : Real32) (f : Far) : (farSetMu mu f).h = f.h := rfl
@[simp] theorem farSetMu_mu (mu : Real32) (f : Far) : (farSetMu mu f).mu = mu := rfl
@[simp] theorem farSetMu_b (mu : Real32) (f : Far) : (farSetMu mu f).b = farrowCoef mu := rfl
@[simp] theorem farShift_b (x : C) (f : Far) : (farShift x f).b = f.b := rfl
@[simp] theorem farShift_mu (x : C) (f : Far) : (farShift x f).mu = f.mu := rfl
@[simp] theorem farShift_h (x : C) (f : Far) :
    (farShift x f).h = { h0 := f.h.h1, h1 := f.h.h2, h2 := f.h.h3, h3 := x } := rfl

/-- A push to the ring changes the ring and the overflow counter only. -/
theorem oringPush_frame (cap : Nat) (z : C) (g : Gar) :
    oringPush cap z g = { g with oring := (oringPush cap z g).oring, ovfCnt := (oringPush cap z g).ovfCnt } := by
  unfold oringPush
  split <;> rfl

/-- Both cases of a push: into a full ring, and into one with room. -/
theorem oringPush_cases (cap : Nat) (z : C) (g : Gar) :
    (g.oring.length = cap ∧ (oringPush cap z g).oring = g.oring.tail ++ [z] ∧
      (oringPush cap z g).ovfCnt = g.ovfCnt + 1) ∨
    (g.oring.length ≠ cap ∧ (oringPush cap z g).oring = g.oring ++ [z] ∧ (oringPush cap z g).ovfCnt = g.ovfCnt) := by
  unfold oringPush
  split
  · exact .inl ⟨‹_›, rfl, rfl⟩
  · exact .inr ⟨‹_›, rfl, rfl⟩

/-- The detector changes the history, the error and the window only. -/
theorem tedUpdate_frame (w : Nat) (y : C) (b : Bool) (g : Gar) :
    tedUpdate w y b g =
      { g with sh := (tedUpdate w y b g).sh, tedErr := (tedUpdate w y b g).tedErr, ted := (tedUpdate w y b g).ted } :=
  rfl

@[simp] theorem tedUpdate_sh (w : Nat) (y : C) (b : Bool) (g : Gar) :
    (tedUpdate w y b g).sh = strobeHistory w b g.sh := rfl

/-- The detector keeps the length of the window in every class. -/
@[simp] theorem length_tedUpdate_ted (w : Nat) (y : C) (b : Bool) (g : Gar) :
    (tedUpdate w y b g).ted.length = g.ted.length := by
  unfold tedUpdate
  dsimp only
  split <;> simp

/-- The loop filter changes its two scalars only. -/
theorem loopFilter_frame (g : Gar) :
    loopFilter g = { g with lfState := (loopFilter g).lfState, lfOut := (loopFilter g).lfOut } := rfl

/-- The interpolation control changes the strobe flag, `mu` and the NCO only. -/
theorem interpControl_frame (inv : Real32) (g : Gar) :
    interpControl inv g =
      { g with
        isStrobe := (interpControl inv g).isStrobe, mu := (interpControl inv g).mu
        nco := (interpControl inv g).nco } := rfl

/-- A Gardner step keeps the gains and the underflow counter, and the length of the window. -/
theorem garAfter_keeps (s : State) (y : C) :
    (garAfter s y).kp = s.gar.kp ∧ (garAfter s y).ki = s.gar.ki ∧ (garAfter s y).udfCnt = s.gar.udfCnt ∧
    (garAfter s y).lastSym = y ∧ (garAfter s y).ted.length = s.gar.ted.length := by
  simp only [garAfter, interpControl, loopFilter]
  refine ⟨?_, ?_, ?_, ?_, ?_⟩
  · simp only [tedUpdate]; split <;> simp only [oringPush]; split <;> rfl
  · simp only [tedUpdate]; split <;> simp only [oringPush]; split <;> rfl
  · simp only [tedUpdate]; split <;> simp only [oringPush]; split <;> rfl
  · simp only [tedUpdate]; split <;> simp only [oringPush]; split <;> rfl
  · rw [length_tedUpdate_ted]; split <;> simp only [oringPush]; split <;> rfl

/-- A Gardner step touches FAR and GAR only. -/
theorem garStep_frame (s : State) (x : C) :
    (garStep s x).state = { s with far := (garStep s x).state.far, gar := (garStep s x).state.gar } := rfl

/-- The flag a Gardner step returns is the one that belonged to this sample. -/
@[simp] theorem garStep_strobe (s : State) (x : C) : (garStep s x).strobe = s.gar.isStrobe := rfl

@[simp] theorem garDrain_oring (n : Nat) (g : Gar) : (garDrain n g).oring = g.oring.drop n := rfl

/-- A drain changes the ring and the underflow counter only. -/
theorem garDrain_frame (n : Nat) (g : Gar) :
    garDrain n g = { g with oring := g.oring.drop n, udfCnt := (garDrain n g).udfCnt } := rfl

@[simp] theorem cfrAdvance_freq (c : Cfr) : (cfrAdvance c).freq = c.freq := rfl

/-- The rotator changes the phase only. -/
theorem cfrRotateBlock_frame (c : Cfr) (xs : List C) :
    (cfrRotateBlock c xs).2 = { c with theta := (cfrRotateBlock c xs).2.theta } := by
  induction xs generalizing c with
  | nil => rfl
  | cons x xs ih => simp only [cfrRotateBlock]; rw [ih]; rfl

@[simp] theorem length_cfrRotateBlock (c : Cfr) (xs : List C) : (cfrRotateBlock c xs).1.length = xs.length := by
  induction xs generalizing c with
  | nil => rfl
  | cons x xs ih => simp [cfrRotateBlock, ih]

/-- The fixed lengths of the pilot grid agree (44_fused_step.md R224: `1530 = 1476 + 54`, `90 - 54 = 36`). -/
theorem pilot_lengths : pilFirst = pilPeriod + pilLo ∧ pilHi = pilLo + pilLen := ⟨rfl, rfl⟩

/-- With the gate closed an update changes nothing. -/
theorem cfrUpdate_closed {c : Cfr} (h : c.active = false) (p : C) : cfrUpdate p c = c := by
  simp [cfrUpdate, h]

/-- An update never touches the phase, the gate or the gains. -/
theorem cfrUpdate_keeps (p : C) (c : Cfr) :
    (cfrUpdate p c).theta = c.theta ∧ (cfrUpdate p c).active = c.active ∧ (cfrUpdate p c).kp = c.kp ∧
    (cfrUpdate p c).ki = c.ki := by
  unfold cfrUpdate
  split <;> exact ⟨rfl, rfl, rfl, rfl⟩

/-- The position loop keeps the lengths of the smoothed vector and of the history. -/
theorem length_frmPositions (refSof refPlsc : List C) (alpha : Real32) (hist : List C) (cs : List Real32)
    (xs : List C) : (frmPositions refSof refPlsc alpha hist cs xs).1.length = cs.length ∧
      (frmPositions refSof refPlsc alpha hist cs xs).2.length = hist.length := by
  induction cs generalizing hist xs with
  | nil => cases xs <;> simp [frmPositions]
  | cons c cs ih =>
    cases xs with
    | nil => simp [frmPositions]
    | cons x xs => simp [frmPositions, ih]

/-- `FRM.SYNC` keeps the configuration of the unit. -/
theorem frmAfter_keeps (n : Nat) (xs : List C) (f : Frm) :
    (frmAfter n xs f).alpha = f.alpha ∧ (frmAfter n xs f).trigger = f.trigger ∧
    (frmAfter n xs f).refSof = f.refSof ∧ (frmAfter n xs f).refPlsc = f.refPlsc ∧ (frmAfter n xs f).dl = xs :=
  ⟨rfl, rfl, rfl, rfl, rfl⟩

@[simp] theorem length_realigned (n delay : Nat) (dl xs : List C) : (realigned n delay dl xs).length = n := by
  simp [realigned]

end Sys2Proof.Machine
end

