-- ==== Sys2Proof/Tests/Slice0.lean ====
section
/-! SUPPORT. Tests: the well-formedness smoke, one word for every row of 30_encoding.md R92, single steps with the
values of 95_test_vectors.md, and a witness for the hypotheses of every statement that has any. -/

namespace Sys2Proof.Tests

open Sys2Proof Sys2Proof.Machine

/-! Helpers -/

/-- The next state, where there is one. -/
def after (r : Result) : Option State :=
  match r with
  | .next t => some t
  | .fault _ => none
  | .refused _ => none

/-- What the host sees of a result: the words pushed on `DOUT` and the status codes. -/
def seen (r : Result) : Option (List Word × List Status) := (after r).map fun t => (t.dout, t.stat)

/-- The status codes after a step. -/
def statuses (r : Result) : Option (List Status) := (after r).map fun t => t.stat

/-- A constructed block: OSF 4, N_SYM 2, ORING_CAP 2, direct gains 0, the identity attached as `MF`; with these
command and operand words (start state of programs P1 and P2 of 95_test_vectors.md). -/
def runState (cmd din : List Word) : State :=
  { State.reset with
    sys := { Sys.reset with phase := .run, osf := 4#32, nsym := 2#32, oringCap := 2#32, gainmode := 3#32 }
    gar := { Gar.reset with ted := List.replicate 4 C0 }
    frm := { Frm.reset with cs := List.replicate 2 rZero, dl := List.replicate 2 C0 }
    cmd := cmd, din := din, mf := .passThrough }

/-- The configuration of `runState`, still in phase CONFIG. -/
def configState (cmd din : List Word) : State :=
  { State.reset with
    sys := { Sys.reset with osf := 4#32, nsym := 2#32, oringCap := 2#32, gainmode := 3#32 }
    cmd := cmd, din := din, mf := .passThrough }

/-- After a failed `SYS.BUILD`. -/
def failedState (cmd din : List Word) : State :=
  { State.reset with
    sys := { Sys.reset with phase := .failed, faultLast := .configError, faultMask := 2#5 }
    cmd := cmd, din := din }

/-- The block of program P5: OSF 2, N_SYM 2. -/
def smallState (din : List Word) : State :=
  { runState [] din with
    sys := { Sys.reset with phase := .run, osf := 2#32, nsym := 2#32, oringCap := 2#32, gainmode := 3#32 }
    gar := { Gar.reset with ted := List.replicate 2 C0 } }

/-- The block of program P3: OSF 2, N_SYM 4, `alpha = 1`, `trigger = 3`, the last reference symbol (1, 0). -/
def frameState (din : List Word) : State :=
  { runState [] din with
    sys := { Sys.reset with phase := .run, osf := 2#32, nsym := 4#32, oringCap := 4#32, gainmode := 3#32 }
    gar := { Gar.reset with ted := List.replicate 2 C0 }
    frm := { Frm.reset with
      cs := List.replicate 4 rZero, dl := List.replicate 4 C0, alpha := rOne, trigger := 0x40400000#32
      refPlsc := List.replicate 63 C0 ++ [{ re := rOne, im := rZero }] } }

/-- A real sample. -/
def re (w : Word) : C := { re := w, im := 0#32 }

/-! Well-formedness: an address beyond 16 bits is refused -/

theorem test_wellFormed_cfgWr_edge : wellFormed (.cfgWr 65535) = true ∧ wellFormed (.cfgWr 65536) = false := by decide
theorem test_wellFormed_cfgRd_edge : wellFormed (.cfgRd 65535) = true ∧ wellFormed (.cfgRd 65536) = false := by decide

/-! Decoding: words written from the table of 30_encoding.md R92 -/

theorem test_decode_sys :
    decode 0b0000_0001_00000000_0000000000000000#32 = .ok .sysBuild ∧
    decode 0b0000_0100_00000000_0000000000000000#32 = .ok .sysReset ∧
    decode 0b0000_0101_00000000_0000000000001000#32 = .ok (.cfgWr 8) ∧
    decode 0b0000_0101_00000000_1000000000000001#32 = .ok (.cfgWr 0x8001) ∧
    decode 0b0000_0110_00000000_0000010011111110#32 = .ok (.cfgRd 0x4FE) := by decide

theorem test_decode_far :
    decode 0b0001_0001_00000000_0000000000000000#32 = .ok .farStep ∧
    decode 0b0001_0011_00000000_0000000000000000#32 = .ok .farSetmu ∧
    decode 0b0001_0100_00000000_0000000000000000#32 = .ok .farReset := by decide

theorem test_decode_gar :
    decode 0b0010_0001_00000000_0000000000000000#32 = .ok .garStep ∧
    decode 0b0010_0010_00000000_0000000000000000#32 = .ok .garSync ∧
    decode 0b0010_0011_00000000_0000000000000000#32 = .ok .garExtract ∧
    decode 0b0010_0100_00000000_0000000000000000#32 = .ok .garReset := by decide

theorem test_decode_cfr :
    decode 0b0011_0001_00000000_0000000000000000#32 = .ok .cfrStep ∧
    decode 0b0011_0010_00000000_0000000000000000#32 = .ok .cfrSync ∧
    decode 0b0011_0011_00000000_0000000000000000#32 = .ok .cfrUpd ∧
    decode 0b0011_0100_00000000_0000000000000000#32 = .ok .cfrReset := by decide

theorem test_decode_frm_syn :
    decode 0b0100_0010_00000000_0000000000000000#32 = .ok .frmSync ∧
    decode 0b0100_0100_00000000_0000000000000000#32 = .ok .frmReset ∧
    decode 0b0101_0010_00000000_0000000000000000#32 = .ok .synSync ∧
    decode 0b0101_0100_00000000_0000000000000000#32 = .ok .synReset := by decide

/-- The words of V-SYS-2, by the case of R95 each falls under, and the first word past the SYN functions. -/
theorem test_decode_refused :
    decode 0x00000000#32 = .error .unassignedFn ∧ decode 0x60000000#32 = .error .unassignedUnit ∧
    decode 0x02000000#32 = .error .unassignedFn ∧ decode 0x11000001#32 = .error .nonzeroImm ∧
    decode 0x11010000#32 = .error .nonzeroZero ∧ decode 0x05010008#32 = .error .nonzeroZero ∧
    decode 0x55000000#32 = .error .unassignedFn ∧ decode 0xF1000000#32 = .error .unassignedUnit := by decide

theorem test_decodeTableWord :
    decodeTableWord 32 0x11000000 = some .farStep ∧ decodeTableWord 32 0 = none := by decide

/-! SYS, from V-SYS-3 to V-SYS-5 -/

theorem test_sysBuild_ok :
    after (exec .sysBuild (configState [] [])) = some { runState [] [] with stat := [.ok] } := by decide

/-- V-SYS-3: all registers zero. -/
theorem test_sysBuild_rejects_reset :
    (after (exec .sysBuild State.reset)).map (fun t => (t.sys.phase, t.sys.faultMask, t.stat)) =
      some (.failed, 0b00010#5, [.configError]) := by decide

theorem test_sysReset :
    (after (exec .sysReset { runState [] [] with
      gar := { (runState [] []).gar with nco := rHalf, kp := rOne, udfCnt := 3 }, syn := { symIdx := 1 } })).map
      (fun t => (t.gar.nco, t.gar.kp, t.gar.udfCnt, t.syn.symIdx, t.stat)) =
    some (rZero, rOne, 3, 0, [.ok]) := by decide

/-- V-SYS-4: an illegal value and an unmapped address have consumed their operand. -/
theorem test_cfgWr_badAccess :
    (after (exec (.cfgWr 0x208) (runState [] [2#32]))).map (fun t => (t.din, t.cfr.active, t.stat)) =
      some ([], false, [.badAccess]) ∧
    (after (exec (.cfgWr 4) (runState [] [0#32]))).map (fun t => (t.din, t.stat)) = some ([], [.badAccess]) := by
  decide

theorem test_cfgWr_symIdx :
    (after (exec (.cfgWr 0x500) (runState [] [1#32]))).map (fun t => (t.syn.symIdx, t.stat)) = some (1, [.ok]) ∧
    (after (exec (.cfgWr 0x500) (runState [] [2#32]))).map (fun t => (t.syn.symIdx, t.stat)) =
      some (0, [.badAccess]) := by decide

/-- V-SYS-3: `SYS_ID`. -/
theorem test_cfgRd_id : seen (exec (.cfgRd 0) State.reset) = some ([0x44565332#32], [.ok]) := by decide

theorem test_cfgRd_unmapped : seen (exec (.cfgRd 4) (runState [] [])) = some ([], [.badAccess]) := by decide

/-- V-SYS-2: an unimplemented word pops and pushes no data word. -/
theorem test_step_unimplemented :
    (after (step (runState [0#32] [7#32]))).map (fun t => (t.din, t.dout, t.sys.faultLast, t.sys.faultMask, t.stat)) =
      some ([7#32], [], .unimplemented, 8#5, [.unimplemented]) := by decide

/-! FAR, from V-FAR-1 to V-FAR-6 -/

/-- V-FAR-1, `mu = 0.25`. -/
theorem test_farSetmu_quarter :
    (after (exec .farSetmu (runState [] [rQuarter]))).map (fun t => t.far.b) =
      some { b0 := 0xBDC00000#32, b1 := 0x3F580000#32, b2 := 0x3EB00000#32, b3 := 0xBDC00000#32 } := by decide

/-- V-FAR-1, `mu ≈ 0.3`: the order of the operations shows in the last bits. -/
theorem test_farSetmu_rounded :
    (after (exec .farSetmu (runState [] [0x3E99999A#32]))).map (fun t => t.far.b) =
      some { b0 := 0xBDD70A3E#32, b1 := 0x3F4E147B#32, b2 := 0x3ECF5C2A#32, b3 := 0xBDD70A3E#32 } := by decide

/-- Program P1, line 10. -/
theorem test_farStep_ramp :
    seen (exec .farStep { runState [] [0x40400000#32, 0xC0C00000#32] with
      far := {
        h := { h0 := C0, h1 := C0, h2 := { re := rOne, im := 0xC0000000#32 }
               h3 := { re := rTwo, im := 0xC0800000#32 } }
        b := farrowCoef rHalf, mu := rHalf } }) =
      some ([0x3FC00000#32, 0xC0400000#32], [.ok]) := by decide

/-- V-FAR-4, the first sample: the newest sample meets `b3`. -/
theorem test_farStep_newest :
    seen (exec .farStep { runState [] [rOne, 0#32] with far := { Far.reset with b := farrowCoef rHalf, mu := rHalf } }) =
      some ([0xBE000000#32, 0#32], [.ok]) := by decide

/-- Program P1, lines 13 and 14. -/
theorem test_farReset :
    (after (exec .farReset { runState [] [] with far := { Far.reset with b := farrowCoef rHalf, mu := rHalf } })).map
      (fun t => t.far) = some Far.reset := by decide

/-! GAR, from V-GAR-1 to V-GAR-6 -/

/-- V-GAR-1, n = 5: a strobe sample with its timing error. -/
theorem test_garStep_strobe :
    (after (exec .garStep { runState [] [0x40C00000#32, 0#32] with
      far := { Far.reset with h := { h0 := re rTwo, h1 := re 0x40400000#32, h2 := re rFour, h3 := re 0x40A00000#32 } }
      gar := { Gar.reset with
        isStrobe := true, sh := 8, nco := rThreeQuarters
        ted := [re 0x40400000#32, re rTwo, re rOne, re rZero] } })).map
      (fun t => ((t.dout, t.gar.sh, t.gar.tedErr, t.gar.isStrobe), t.gar.nco, t.gar.ted, t.gar.oring)) =
    some (([rFour, 0#32, 1#32], 1, 0xC1000000#32, false), rHalf,
      [re rFour, re 0x40400000#32, re rTwo, re rOne], [re rFour]) := by decide

/-- V-GAR-3, n = 11: two strobes within OSF samples stuff a zero. -/
theorem test_garStep_stuffing :
    (after (exec .garStep { runState [] [0xC1400000#32, 0#32] with
      far := {
        h := { h0 := re 0xC1000000#32, h1 := re 0xC1100000#32, h2 := re 0xC1200000#32, h3 := re 0xC1300000#32 }
        b := farrowCoef 0x3E400000#32, mu := 0x3E400000#32 }
      gar := { Gar.reset with
        isStrobe := true, sh := 2, nco := 0x3F4C0000#32, mu := 0x3E400000#32, kp := 0x3C800000#32
        ted := [re 0xC1180000#32, re 0xC1080000#32, re 0xC0E00000#32, re 0xC0C00000#32] } })).map
      (fun t => (t.gar.sh, t.gar.tedErr, t.gar.isStrobe, t.gar.nco, t.gar.ted)) =
    some (5, rZero, false, 0x3F0C0000#32,
      [re 0xC1230000#32, re rZero, re 0xC1180000#32, re 0xC1080000#32]) := by decide

/-- The ramp (1, 0), …, (8, 0). -/
def ramp : List Word :=
  [rOne, 0#32, rTwo, 0#32, 0x40400000#32, 0#32, rFour, 0#32, 0x40A00000#32, 0#32, 0x40C00000#32, 0#32,
    0x40E00000#32, 0#32, 0x41000000#32, 0#32]

/-- Program P2, lines 6 to 8. -/
theorem test_garSync_ramp :
    (after (exec .garSync (runState [] ramp))).map
      (fun t => ((t.gar.oring, t.gar.nco, t.gar.sh), t.din, t.dout, t.stat)) =
    some (([re rZero, re rFour], rZero, 4), [], [], [.ok]) := by decide +kernel

/-- Program P2, lines 9 and 10. -/
theorem test_garExtract_full :
    seen (exec .garExtract { runState [] [] with
      gar := { (runState [] []).gar with oring := [re rZero, re rFour] } }) =
      some ([0#32, 0#32, rFour, 0#32, 0#32], [.ok]) := by decide

theorem test_garExtract_empty :
    (after (exec .garExtract (runState [] []))).map (fun t => (t.dout, t.gar.udfCnt, t.sys.faultMask, t.stat)) =
      some ([0#32, 0#32, 0#32, 0#32, 1#32], 1, 4#5, [.processingAborted]) := by decide

/-- V-GAR-6: the counters survive. -/
theorem test_garReset :
    (after (exec .garReset { runState [] [] with
      gar := { (runState [] []).gar with nco := rHalf, oring := [C0], udfCnt := 1, ki := rOne } })).map
      (fun t => (t.gar, t.stat)) =
    some ({ (runState [] []).gar with udfCnt := 1, ki := rOne }, [.ok]) := by decide

/-! CFR, from V-CFR-1 to V-CFR-4 -/

/-- V-CFR-2, on (1, 2) at a quarter turn. -/
theorem test_cfrStep_quarter :
    (after (exec .cfrStep { runState [] [rOne, rTwo] with
      cfr := { Cfr.reset with theta := rQuarter, freq := rQuarter } })).map (fun t => (t.dout, t.cfr.theta)) =
      some ([rTwo, rNegOne], rHalf) := by decide

/-- V-CFR-3: the phase of a negative frequency wraps. -/
theorem test_cfrStep_wrap :
    (after (exec .cfrStep { runState [] [rOne, rTwo] with
      cfr := { Cfr.reset with freq := 0xBE800000#32 } })).map (fun t => (t.dout, t.cfr.theta)) =
      some ([rOne, rTwo], rThreeQuarters) := by decide

/-- Program P4, line 8. -/
theorem test_cfrSync_quarters :
    (after (exec .cfrSync { smallState [rOne, rTwo, rOne, rTwo, rOne, rTwo, rOne, rTwo] with
      cfr := { Cfr.reset with freq := rQuarter } })).map (fun t => (t.dout, t.cfr.theta, t.stat)) =
      some ([rOne, rTwo, rTwo, rNegOne, rNegOne, 0xC0000000#32, 0xC0000000#32, rOne], rZero, [.ok]) := by
  decide +kernel

/-- V-CFR-1, third row. -/
theorem test_cfrUpd_open :
    (after (exec .cfrUpd { runState [] [rZero, rOne] with
      cfr := { Cfr.reset with active := true, kp := rHalf, ki := rQuarter, p1 := re rOne, p2 := re rOne } })).map
      (fun t => (t.cfr.err, t.cfr.lfState, t.cfr.freq, t.cfr.p1, t.cfr.p2)) =
      some (rOne, rQuarter, rThreeQuarters, { re := rZero, im := rOne }, re rOne) := by decide

/-- Program P4, line 1: the gate is closed. -/
theorem test_cfrUpd_closed :
    (after (exec .cfrUpd (runState [] [rZero, rOne]))).map (fun t => (t.cfr, t.din, t.stat)) =
      some (Cfr.reset, [], [.ok]) := by decide

/-- V-CFR-4: the gate and the gains are kept. -/
theorem test_cfrReset :
    (after (exec .cfrReset { runState [] [] with
      cfr := { Cfr.reset with freq := rHalf, theta := rHalf, active := true, kp := rHalf } })).map (fun t => t.cfr) =
      some { Cfr.reset with active := true, kp := rHalf } := by decide

/-! FRM, from V-FRM-1 and V-FRM-4 -/

/-- Program P3, line 9. -/
theorem test_frmSync_first :
    (after (exec .frmSync (frameState [0#32, 0#32, 0x40400000#32, rFour, 0#32, 0#32, 0#32, 0#32]))).map
      (fun t => (t.dout, t.frm.cs, t.frm.maxIdx)) =
      some ([0#32, 0#32, 0#32, 0#32, 0#32, 0#32, 0#32, 0#32, 1#32, 1#32, 0x40A00000#32],
        [0#32, 0#32, 0x40A00000#32, 0#32], 2) := by decide +kernel

/-- V-FRM-4, `p = 0`, first call: no realignment, and the delay is 0. -/
theorem test_frmSync_aligned :
    seen (exec .frmSync (frameState [0x40400000#32, rFour, 0#32, 0#32, 0#32, 0#32, 0#32, 0#32])) =
      some ([0x40400000#32, rFour, 0#32, 0#32, 0#32, 0#32, 0#32, 0#32, 0#32, 1#32, 0x40A00000#32], [.ok]) := by
  decide +kernel

theorem test_frmReset :
    (after (exec .frmReset { frameState [] with
      frm := { (frameState []).frm with delay := 1, flag := true, maxCorr := rOne, dl := List.replicate 4 (re rOne) }
      })).map (fun t => t.frm) = some (frameState []).frm := by decide

/-! SYN, program P5 -/

/-- Line 2. -/
theorem test_synSync_first :
    (after (exec .synSync
      { smallState [rOne, rOne, rTwo, rNegOne, 0x40400000#32, 0#32, rFour, rTwo] with
        cfr := { Cfr.reset with active := true } })).map
      (fun t => (t.dout, t.gar.tedErr, t.gar.ted, t.syn.symIdx, t.stat)) =
      some ([0#32, 0#32, rTwo, rNegOne, 0#32, 0#32], rNegOne,
        [{ re := rTwo, im := rNegOne }, { re := rOne, im := rOne }], 0, [.ok]) := by decide +kernel

/-- A pilot symbol reaches the detector (44_fused_step.md R224): index 1530, gate open, a strobe. -/
theorem test_synSample_pilot :
    (synSample { smallState [] with
      sys := { (smallState []).sys with nsym := 1600#32 }, syn := { symIdx := 1530 }
      gar := { (smallState []).gar with isStrobe := true }, cfr := { Cfr.reset with active := true, p1 := re rOne } }
      (re rOne)).cfr.p2 = re rOne ∧
    pilotZone 1529 = false ∧ pilotZone 1565 = true ∧ pilotZone 1566 = false ∧ pilotZone 54 = false := by decide

theorem test_synReset :
    (after (exec .synReset { smallState [] with
      syn := { symIdx := 1 }, gar := { (smallState []).gar with nco := rHalf }
      frm := { (smallState []).frm with delay := 1 } })).map (fun t => (t.syn.symIdx, t.gar.nco, t.frm.delay)) =
      some (0, rZero, 1) := by decide

/-! Design and arithmetic -/

/-- V-SYS-1, first row. -/
theorem test_lfDesign :
    lfDesign rHalf rHalf rOne 4 rNegOne = { kp := 0xBE607038#32, ki := 0xBD607038#32 } := by decide +kernel

/-- The bound of 46_numerics.md R266 (b) at one eighth, and at the phase 1, which the phase reaches by rounding: next to
1 and 0, and nothing else. -/
theorem test_trig_bound :
    withinUlp (cosNegative 0x3E000000#32) (cosEnclosure 0x3E000000#32) 0x3F3504F3#32 = true ∧
    withinUlp (cosNegative 0x3E000000#32) (cosEnclosure 0x3E000000#32) 0x3F3504F5#32 = false ∧
    withinUlp (cosNegative rOne) (cosEnclosure rOne) rOne = true ∧
    withinUlp (cosNegative rOne) (cosEnclosure rOne) 0x3F7FFFFD#32 = false ∧
    withinUlp (sinNegative rOne) (sinEnclosure rOne) rZero = true ∧
    withinUlp (sinNegative rOne) (sinEnclosure rOne) 2#32 = false := by decide +kernel

/-- IEEE 754: a tie goes to the even neighbour, and an overflow to infinity. -/
theorem test_round :
    rAdd 0x4B800000#32 rOne = 0x4B800000#32 ∧ rAdd 0x4B800001#32 rOne = 0x4B800002#32 ∧
    rMul 0x7F000000#32 rFour = 0x7F800000#32 ∧ rSqrt rFour = rTwo ∧ rFloor 0xBE800000#32 = rNegOne := by
  decide +kernel

/-! A program placed by `withFetchWord` is the next instruction -/

theorem test_withFetchWord :
    seen (step (State.reset.withFetchWord 32 0x06000000)) = some ([0x44565332#32], [.ok]) ∧
    seen (step ((runState [] []).withFetchWord 32 0x13000000)) = some ([], [.ok]) := by decide

/-! Witnesses: for every statement with hypotheses, states and operands that meet all of them -/

theorem witness_DecodeOfEncode :
    wellFormed (.cfgWr 0xFFFF) = true := by decide

theorem witness_EncodeOfDecode :
    decode 0x0600FFFF#32 = .ok (.cfgRd 0xFFFF) := by decide

theorem witness_StepRunsDecodedWord :
    (runState [0x11000000#32] []).rst = false ∧ (runState [0x11000000#32] []).cmd = [0x11000000#32] ∧
    decode 0x11000000#32 = .ok .farStep ∧ wellFormed .farStep = true := by decide

theorem witness_UnmatchedWordIsUnimplemented :
    (runState [0x11000001#32] []).rst = false ∧ (runState [0x11000001#32] []).cmd = 0x11000001#32 :: [] ∧
    ∀ i : Instr, 0x11000001#32 &&& opcodeMask i ≠ BitVec.ofNat 32 (opcodeOf i) := by
  refine ⟨by decide, by decide, fun i => ?_⟩
  cases i <;> simp only [opcodeMask, opcodeOf] <;> decide

theorem witness_ResetEvent :
    ({ runState [0x11000000#32] [1#32] with rst := true } : State).rst = true := by decide

theorem witness_WaitsForACommand :
    (runState [] []).rst = false ∧ (runState [] []).cmd = [] := by decide

/-- Both sides of the boundary: 15 words, and 16. -/
theorem witness_OperationWaitsForItsWords :
    permittedIn .garSync (runState [] ramp).sys.phase = true ∧
    (runState [] ramp.tail).din.length < dinWords (runState [] ramp.tail) .garSync ∧
    dinWords (runState [] ramp) .garSync ≤ (runState [] ramp).din.length := by decide

/-- A step with each of the five statuses. -/
theorem witness_StatusAndFaultRegisters :
    statuses (step (runState [0x14000000#32] [])) = some [.ok] ∧
    statuses (step { State.reset with cmd := [0x01000000#32] }) = some [.configError] ∧
    statuses (step (runState [0x23000000#32] [])) = some [.processingAborted] ∧
    statuses (step (runState [0x00000000#32] [])) = some [.unimplemented] ∧
    statuses (step (runState [0x01000000#32] [])) = some [.badAccess] := by decide

/-- The three refusing codes, the last also for a `CFG.WR` that pops and for one refused by the phase. -/
theorem witness_RefusingFaultChangesNothingElse :
    statuses (step { State.reset with cmd := [0x01000000#32] }) = some [.configError] ∧
    statuses (step (runState [0x00000000#32] [])) = some [.unimplemented] ∧
    statuses (step (runState [0x01000000#32] [])) = some [.badAccess] ∧
    statuses (step (runState [0x05000004#32] [0#32])) = some [.badAccess] ∧
    statuses (step (failedState [0x05000008#32] [4#32])) = some [.badAccess] := by decide

theorem witness_PhaseTable :
    ((failedState [] []).sys.phase = .failed ∧ ∀ a, Instr.sysBuild ≠ .cfgRd a) ∧
    ((configState [] []).sys.phase = .config ∧ Instr.farStep ≠ .sysBuild ∧ (∀ a, Instr.farStep ≠ .cfgRd a) ∧
      ∀ a, Instr.farStep ≠ .cfgWr a) ∧
    (runState [] []).sys.phase = .run := by
  refine ⟨⟨rfl, nofun⟩, ⟨rfl, nofun, nofun, nofun⟩, rfl⟩

theorem witness_PhaseMovesOnlyAtBuild :
    (configState [0x01000000#32] []).rst = false ∧
    ((after (step (configState [0x01000000#32] []))).map fun t => t.sys.phase) = some .run ∧
    ((after (step { State.reset with cmd := [0x01000000#32] })).map fun t => t.sys.phase) = some .failed := by decide

theorem witness_FailedIsFinal :
    (failedState [0x06000008#32] []).sys.phase = .failed ∧ (∀ a, Instr.farStep ≠ .cfgRd a) ∧
    statuses (step { State.reset with cmd := [0x01000000#32] }) = some [.configError] ∧ cfgRegAt 8 = some .cfgOsf ∧
    ((after (step (failedState [0x06000008#32] []))).map fun t => t.sys.phase) = some .failed ∧
    ({ failedState [] [] with rst := true } : State).sys.phase = .failed := by
  refine ⟨rfl, nofun, by decide, by decide, by decide, rfl⟩

/-- A step with each cause (a) to (f), and one with none. -/
theorem witness_BadAccessCauses :
    statuses (exec .sysBuild (runState [] [])) = some [.badAccess] ∧
    statuses (exec (.cfgRd 4) (runState [] [])) = some [.badAccess] ∧
    statuses (exec (.cfgWr 0) (runState [] [0#32])) = some [.badAccess] ∧
    statuses (exec (.cfgWr 8) (runState [] [4#32])) = some [.badAccess] ∧
    statuses (exec (.cfgWr 0x208) (runState [] [2#32])) = some [.badAccess] ∧
    statuses (exec (.cfgWr 0x500) (runState [] [2#32])) = some [.badAccess] ∧
    statuses (exec (.cfgWr 0x500) (configState [] [1#32])) = some [.badAccess] ∧
    statuses (exec (.cfgWr 0x500) (runState [] [1#32])) = some [.ok] := by decide

/-- A constructed block, and one not constructed. -/
theorem witness_StepKeepsShape :
    Shaped (runState [0x14000000#32] []) ∧ Shaped (configState [0x01000000#32] []) ∧
    statuses (step (runState [0x14000000#32] [])) = some [.ok] ∧
    statuses (step (configState [0x01000000#32] [])) = some [.ok] := by
  refine ⟨⟨⟨by decide, by decide, by decide⟩, fun _ => ?_, fun h => absurd rfl h⟩,
    ⟨⟨by decide, by decide, by decide⟩, nofun, fun _ => ?_⟩, by decide, by decide⟩
  · exact ⟨by decide, by decide, by decide, by decide, by decide, by decide, by decide, by decide, by decide,
      by decide, by decide⟩
  · exact ⟨rfl, rfl, rfl, rfl, rfl⟩

theorem witness_StepKeepsFaultsAgree :
    FaultsAgree (failedState [0x11000000#32] []).sys ∧
    statuses (step (failedState [0x11000000#32] [])) = some [.badAccess] := 
  ⟨⟨by decide, by decide, by decide, by decide⟩, by decide⟩

/-- The phases at 0 and at 1, the ends of the range, and a NaN. -/
theorem witness_StepKeepsPhasesInTurn :
    (isFinite rZero = true ∧ 0 ≤ valueOf rZero ∧ valueOf rZero ≤ 1) ∧
    (isFinite rOne = true ∧ 0 ≤ valueOf rOne ∧ valueOf rOne ≤ 1) ∧ isNaN 0x7FC00000#32 = true ∧
    ({ (runState [] []).gar with mu := rOne } : Gar).mu = rOne ∧
    statuses (step { runState [0x21000000#32] [rOne, rOne] with
      gar := { (runState [] []).gar with nco := rOne } }) = some [.ok] := by decide +kernel

theorem witness_CountersNeverDecrease :
    (runState [0x23000000#32] []).rst = false ∧
    statuses (step (runState [0x23000000#32] [])) = some [.processingAborted] := by decide

theorem witness_ConfigurationFrozenInRun :
    (runState [0x05000208#32] [1#32]).rst = false ∧ (runState [0x05000208#32] [1#32]).sys.phase = .run ∧
    statuses (step (runState [0x05000208#32] [1#32])) = some [.ok] := by decide

theorem witness_FarSetmuResult :
    (runState [] [rHalf]).sys.phase = .run ∧ (runState [] [rHalf]).din = rHalf :: [] := by decide

theorem witness_FarStepResult :
    (runState [] [rOne, rTwo, rFour]).sys.phase = .run ∧ (runState [] [rOne, rTwo, rFour]).din = rOne :: rTwo :: [rFour] := by decide

theorem witness_FarPureDelay :
    (runState [] [rOne, rTwo]).sys.phase = .run ∧ (runState [] [rOne, rTwo]).din = rOne :: rTwo :: [] ∧
    (runState [] [rOne, rTwo]).far.b = { b0 := rZero, b1 := rOne, b2 := rZero, b3 := rZero } ∧
    ∀ z ∈ [C0, C0, C0, { re := rOne, im := rTwo }], isFinite z.re = true ∧ isFinite z.im = true := by decide

theorem witness_FarResetResult :
    (runState [] []).sys.phase = .run := by decide

theorem witness_GarResetResult :
    (runState [] []).sys.phase = .run := by decide

theorem witness_CfrResetResult :
    (runState [] []).sys.phase = .run := by decide

theorem witness_FrmResetResult :
    (runState [] []).sys.phase = .run := by decide

theorem witness_SynResetResult :
    (runState [] []).sys.phase = .run := by decide

theorem witness_SysResetResult :
    (runState [] []).sys.phase = .run := by decide

/-- The flag of the sample down, up, and up with a full ring. -/
theorem witness_GarStepResult :
    (runState [] [rOne, rTwo, rFour]).sys.phase = .run ∧
    (runState [] [rOne, rTwo, rFour]).din = rOne :: rTwo :: [rFour] ∧
    (runState [] [rOne, rTwo, rFour]).gar.isStrobe = false ∧
    ({ Gar.reset with isStrobe := true, oring := [C0, C0] } : Gar).oring.length = oringCap (runState [] []) ∧
    ({ Gar.reset with isStrobe := true, oring := [C0] } : Gar).oring.length ≠ oringCap (runState [] []) := by decide

theorem witness_GarSyncIsItsSteps :
    (runState [] ramp).sys.phase = .run ∧ 2 * nSmp (runState [] ramp) ≤ (runState [] ramp).din.length := by decide

theorem witness_CfrSyncIsItsSteps :
    (runState [] ramp).sys.phase = .run ∧ 2 * nSmp (runState [] ramp) ≤ (runState [] ramp).din.length := by decide

/-- Exactly N_SYM symbols, and one fewer. -/
theorem witness_GarExtractResult :
    ({ runState [] [] with gar := { Gar.reset with oring := [C0, C0] } } : State).sys.phase = .run ∧
    nSym (runState [] []) ≤ [C0, C0].length ∧ [C0].length < nSym (runState [] []) := by decide

theorem witness_StrobeOffsetAtMostOne :
    rLt rZero rZero = false ∧ rLt rZero rQuarter = true ∧ rLt rHalf rZero = false ∧ rLt rHalf rOne = true := by decide

theorem witness_CfrStepResult :
    (runState [] [rOne, rTwo, rFour]).sys.phase = .run ∧ (runState [] [rOne, rTwo, rFour]).din = rOne :: rTwo :: [rFour] := by decide

theorem witness_RotationAtPhaseZero :
    (runState [] [rOne, rTwo]).sys.phase = .run ∧ (runState [] [rOne, rTwo]).din = rOne :: rTwo :: [] ∧
    (runState [] [rOne, rTwo]).cfr.theta = rZero ∧ isFinite rOne = true ∧ isFinite rTwo = true := by decide

/-- The gate open, and closed. -/
theorem witness_CfrUpdResult :
    (runState [] [rOne, rTwo, rFour]).sys.phase = .run ∧
    (runState [] [rOne, rTwo, rFour]).din = rOne :: rTwo :: [rFour] ∧
    (runState [] [rOne, rTwo, rFour]).cfr.active = false ∧ ({ Cfr.reset with active := true } : Cfr).active = true := by decide

theorem witness_FrmSyncResult :
    (runState [] [rOne, rTwo, rFour, rHalf]).sys.phase = .run ∧
    [({ re := rOne, im := rTwo } : C), { re := rFour, im := rHalf }].length = nSym (runState [] []) ∧
    (runState [] [rOne, rTwo, rFour, rHalf]).din =
      wordsOf [{ re := rOne, im := rTwo }, { re := rFour, im := rHalf }] ++ [] := by decide

theorem witness_CorrelationSums :
    (List.replicate 25 C0).length = 25 ∧ (List.replicate 64 C0).length = 64 ∧ (List.replicate 89 C0).length = 89 := by decide

theorem witness_PositionsSeeEarlierSymbols :
    (List.replicate 89 C0).length = 89 ∧ [rZero, rOne].length = [C0, C0].length := by decide

/-- A tie, and a NaN at index 0 and behind it. -/
theorem witness_PeakIsFirstMaximum :
    [rZero, rOne, rOne] ≠ [] ∧ peak [rZero, rOne, rOne] = (1, rOne) ∧
    peak [0x7FC00000#32, rOne] = (0, 0x7FC00000#32) ∧ peak [rZero, 0x7FC00000#32, rOne] = (2, rOne) := by decide

/-- The smallest block, and both ends of a longer one. -/
theorem witness_DelayFindsHeader :
    0 < 1 ∧ 0 < 100 ∧ 99 < 100 := by decide

/-- Delay 0, and the largest delay. -/
theorem witness_RealignedBlock :
    [C0, C0].length = 2 ∧ 0 < 2 ∧ 1 < 2 := by decide

/-- The block of program P5, and a drain with exactly N_SYM and with fewer symbols. -/
theorem witness_SynSyncResult :
    (smallState [rOne, rOne, rTwo, rTwo, rOne, rOne, rTwo, rTwo]).sys.phase = .run ∧
    [({ re := rOne, im := rOne } : C), { re := rTwo, im := rTwo }, { re := rOne, im := rOne },
      { re := rTwo, im := rTwo }].length = nSmp (smallState []) ∧
    (smallState [rOne, rOne, rTwo, rTwo, rOne, rOne, rTwo, rTwo]).din =
      wordsOf [{ re := rOne, im := rOne }, { re := rTwo, im := rTwo }, { re := rOne, im := rOne },
        { re := rTwo, im := rTwo }] ++ [] ∧
    ([C0, C0, C0, C0].foldl synSample (smallState [])).gar.oring.length = nSym (smallState []) ∧
    ([C0, C0, C0, C0].foldl synSample
      { smallState [] with gar := { (smallState []).gar with lfState := rNegOne } }).gar.oring.length <
      nSym (smallState []) := by decide +kernel

theorem witness_SynSampleIsSeparateOperations :
    (runState [] [rOne, rTwo, rFour]).sys.phase = .run ∧
    (runState [] [rOne, rTwo, rFour]).din = ({ re := rOne, im := rTwo } : C).re :: ({ re := rOne, im := rTwo } : C).im :: [rFour] := by decide

theorem witness_SynSyncIsSeparatePasses :
    (smallState [rOne, rOne, rTwo, rTwo, rOne, rOne, rTwo, rTwo]).sys.phase = .run ∧
    (smallState []).cfr.active = false ∧ (smallState []).mf = .passThrough ∧
    [({ re := rOne, im := rOne } : C), { re := rTwo, im := rTwo }, { re := rOne, im := rOne },
      { re := rTwo, im := rTwo }].length = nSmp (smallState []) ∧
    (smallState [rOne, rOne, rTwo, rTwo, rOne, rOne, rTwo, rTwo]).din =
      wordsOf [{ re := rOne, im := rOne }, { re := rTwo, im := rTwo }, { re := rOne, im := rOne },
        { re := rTwo, im := rTwo }] ++ [] := by decide

/-- Direct gains (`configState`), and derived ones, at the least OSF and at the greatest. -/
theorem witness_SysBuildResult :
    ((configState [] []).sys.phase = .config ∧ 2 ≤ (configState [] []).sys.osf.toInt ∧
      (configState [] []).sys.osf.toInt ≤ 32 ∧ 1 ≤ (configState [] []).sys.nsym.toInt ∧
      (configState [] []).sys.nsym.toInt ≤ (configState [] []).sys.oringCap.toInt ∧
      0 ≤ (configState [] []).sys.gainmode.toInt ∧ (configState [] []).sys.gainmode.toInt ≤ 3 ∧
      (configState [] []).sys.gainmode.getLsbD 0 = true ∧ (configState [] []).sys.gainmode.getLsbD 1 = true ∧
      isFinite (configState [] []).gar.kp = true ∧ isFinite (configState [] []).gar.ki = true ∧
      isFinite (configState [] []).cfr.kp = true ∧ isFinite (configState [] []).cfr.ki = true) ∧
    buildOk (configState [] []) = true ∧
    buildOk { State.reset with sys := { Sys.reset with
      osf := 2#32, nsym := 1#32, oringCap := 1#32, garZeta := rHalf, garBn := rHalf, garKd := rOne
      cfrZeta := rHalf, cfrBn := rHalf, cfrKd := rOne } } = true ∧
    buildOk { State.reset with sys := { Sys.reset with
      osf := 32#32, nsym := 1#32, oringCap := 1#32, gainmode := 2#32, garZeta := rHalf, garBn := rHalf
      garKd := rOne } } = true := by decide +kernel

/-- Each clause of 45_system_ops.md R237 broken at its boundary, and a gain that is no number. -/
theorem witness_SysBuildRejects :
    buildOk { configState [] [] with sys := { (configState [] []).sys with osf := 1#32 } } = false ∧
    buildOk { configState [] [] with sys := { (configState [] []).sys with osf := 33#32 } } = false ∧
    buildOk { configState [] [] with sys := { (configState [] []).sys with nsym := 0#32 } } = false ∧
    buildOk { configState [] [] with sys := { (configState [] []).sys with oringCap := 1#32 } } = false ∧
    buildOk { configState [] [] with sys := { (configState [] []).sys with gainmode := 4#32 } } = false ∧
    buildOk { configState [] [] with sys := { (configState [] []).sys with gainmode := 2#32 } } = false ∧
    buildOk { configState [] [] with sys := { (configState [] []).sys with gainmode := 1#32 } } = false ∧
    buildOk { configState [] [] with gar := { Gar.reset with kp := 0x7F800000#32 } } = false := by decide +kernel

/-- The four forms: an `RWc` register in CONFIG, the gate, and the frame index at its two bounds. -/
theorem witness_CfgWrThenRead :
    FixedShape (runState [] [1#32]) ∧ FixedShape (configState [] [4#32]) ∧
    (cfgRegAt 8 = some .cfgOsf ∧ cfgAccess .cfgOsf = .rwc ∧ (configState [] [4#32]).sys.phase = .config) ∧
    (cfgRegAt 0x208 = some .cfrActive ∧ (runState [] [1#32]).sys.phase ≠ .failed) ∧
    (cfgRegAt 0x500 = some .synSymIdx ∧ (runState [] [1#32]).sys.phase = .run ∧ 0 ≤ (0#32).toInt ∧
      0 ≤ (1#32).toInt ∧ (1#32).toInt < nSym (runState [] [1#32])) ∧
    (runState [] [1#32]).din = 1#32 :: [] ∧ (configState [] [0#32]).sys.phase = .config := 
  ⟨⟨by decide, by decide, by decide⟩, ⟨by decide, by decide, by decide⟩, by decide, by decide, by decide, by decide,
    by decide⟩

/-- One write of each refused form; the index just past its bounds. -/
theorem witness_CfgWrRefused :
    (runState [] [2#32]).sys.phase ≠ .failed ∧ (runState [] [2#32]).din = 2#32 :: [] ∧ cfgRegAt 4 = none ∧
    (cfgRegAt 0x108 = some .garMu ∧ cfgAccess .garMu = .ro) ∧
    (cfgRegAt 8 = some .cfgOsf ∧ cfgAccess .cfgOsf = .rwc ∧ (runState [] [2#32]).sys.phase ≠ .config) ∧
    (cfgRegAt 0x208 = some .cfrActive ∧ 2#32 ≠ 0#32 ∧ 2#32 ≠ 1#32) ∧
    (cfgRegAt 0x500 = some .synSymIdx ∧ ¬(2#32).toInt < nSym (runState [] []) ∧ ¬0 ≤ (0xFFFFFFFF#32).toInt) ∧
    ((configState [] [1#32]).sys.phase = .config ∧ 1#32 ≠ 0#32) := by decide

theorem witness_PilotZoneIsPilotBlocks : 1530 ≤ 1530 ∧ 1529 < 1530 ∧ pilotZone 1530 = true ∧ pilotZone 3005 = false := by
  decide

theorem witness_CfgRdResult :
    cfgRegAt 0x500 = some .synSymIdx ∧ cfgRegAt 0x501 = none := by decide

theorem witness_RegisterAddresses :
    cfgRegAt 0x4FF = some (.refPlscIm 63) ∧ cfgRegAt 0x432 = none := by decide

/-- Every operation, at a rounded result. -/
theorem witness_ArithmeticIsNearest :
    isFinite rOne = true ∧ isFinite 0x40400000#32 = true ∧ isFinite (rAdd rOne 0x40400000#32) = true ∧
    isFinite (rSub rOne 0x40400000#32) = true ∧ isFinite (rMul rOne 0x40400000#32) = true ∧
    isFinite (rDiv rOne 0x40400000#32) = true ∧ isZero 0x40400000#32 = false := by decide +kernel

theorem witness_SquareRootIsNearest :
    isFinite rTwo = true ∧ 0 ≤ valueOf rTwo ∧ isFinite rZero = true ∧ 0 ≤ valueOf rZero := by decide +kernel

/-- The phase one eighth and the phase 1, with the neighbours of the exact cosine there: `1 / sqrt 2` and 1. -/
theorem witness_AdmittedTrigWithinOneUlp :
    isFinite 0x3E000000#32 = true ∧ isFinite rOne = true ∧
    signBit 0x3F3504F3#32 = false ∧ isFinite 0x3F3504F3#32 = true ∧ isFinite 0x3F3504F4#32 = true ∧
    (0x3F3504F4#32).toNat = (0x3F3504F3#32).toNat + 1 ∧ valueOf 0x3F3504F3#32 ^ 2 ≤ 1 / 2 ∧
    1 / 2 < valueOf 0x3F3504F4#32 ^ 2 ∧
    signBit rOne = false ∧ (0x3F800001#32).toNat = rOne.toNat + 1 ∧ valueOf rOne ≤ 1 ∧
    1 < valueOf 0x3F800001#32 := by decide +kernel

theorem witness_LoopDesignEquations :
    isFinite (toR 1) = true ∧ valueOf (toR 1) = 1 ∧ isFinite (toR 32) = true ∧ valueOf (toR 32) = 32 := by
  decide +kernel

end Sys2Proof.Tests
end

/-! PROOFS. The register addresses of 10_state.md R50. -/
section
namespace Sys2Proof.Machine

/-- The address of a register, read off the rows of 10_state.md R50: the left inverse of `cfgRegAt`. -/
def regAddr : CfgReg → Nat
  | .sysId => 0x0000
  | .sysPhase => 0x0001
  | .sysFaultLast => 0x0002
  | .sysFaultMask => 0x0003
  | .cfgOsf => 0x0008
  | .cfgNsym => 0x0009
  | .cfgOringCap => 0x000A
  | .cfgGainmode => 0x000B
  | .garZeta => 0x0100
  | .garBn => 0x0101
  | .garKd => 0x0102
  | .garKp => 0x0103
  | .garKi => 0x0104
  | .garMu => 0x0108
  | .garStrobe => 0x0109
  | .garSymRe => 0x010A
  | .garSymIm => 0x010B
  | .garOvf => 0x010C
  | .garUdf => 0x010D
  | .garFill => 0x010E
  | .garNco => 0x0110
  | .garLfState => 0x0111
  | .garLfOut => 0x0112
  | .garTedErr => 0x0113
  | .garSh => 0x0114
  | .farMu => 0x0118
  | .farB0 => 0x011C
  | .farB1 => 0x011D
  | .farB2 => 0x011E
  | .farB3 => 0x011F
  | .cfrZeta => 0x0200
  | .cfrBn => 0x0201
  | .cfrKd => 0x0202
  | .cfrKp => 0x0203
  | .cfrKi => 0x0204
  | .cfrActive => 0x0208
  | .cfrFreq => 0x0209
  | .cfrTheta => 0x020A
  | .cfrLfState => 0x020B
  | .cfrErr => 0x020C
  | .frmAlpha => 0x0300
  | .frmTrigger => 0x0301
  | .frmDelay => 0x0308
  | .frmFlag => 0x0309
  | .frmTri => 0x030A
  | .frmMaxIdx => 0x030B
  | .refSofRe k => 0x0400 + 2 * k
  | .refSofIm k => 0x0401 + 2 * k
  | .refPlscRe k => 0x0480 + 2 * k
  | .refPlscIm k => 0x0481 + 2 * k
  | .synSymIdx => 0x0500

/-- The addresses of the start-of-frame reference: even ones real parts, odd ones imaginary parts. -/
theorem cfgRegAt_sofRange {a : Nat} (h : 0x0400 ≤ a ∧ a ≤ 0x0431) :
    cfgRegAt a =
      some (if a % 2 = 0 then .refSofRe ((a - 0x0400) / 2) else .refSofIm ((a - 0x0400) / 2)) := by
  unfold cfgRegAt
  split
  case h_48 => rw [if_pos h]
  all_goals omega

/-- The addresses of the PLS-code reference: even ones real parts, odd ones imaginary parts. -/
theorem cfgRegAt_plscRange {a : Nat} (h : 0x0480 ≤ a ∧ a ≤ 0x04FF) :
    cfgRegAt a =
      some (if a % 2 = 0 then .refPlscRe ((a - 0x0480) / 2) else .refPlscIm ((a - 0x0480) / 2)) := by
  unfold cfgRegAt
  split
  case h_48 => rw [if_neg (by omega), if_pos h]
  all_goals omega

theorem cfgRegAt_refSof {k : Nat} (hk : k < 25) :
    cfgRegAt (0x0400 + 2 * k) = some (.refSofRe k) ∧ cfgRegAt (0x0401 + 2 * k) = some (.refSofIm k) := by
  rw [cfgRegAt_sofRange (by omega), cfgRegAt_sofRange (by omega), if_pos (by omega), if_neg (by omega)]
  exact ⟨by congr 2; omega, by congr 2; omega⟩

theorem cfgRegAt_refPlsc {k : Nat} (hk : k < 64) :
    cfgRegAt (0x0480 + 2 * k) = some (.refPlscRe k) ∧ cfgRegAt (0x0481 + 2 * k) = some (.refPlscIm k) := by
  rw [cfgRegAt_plscRange (by omega), cfgRegAt_plscRange (by omega), if_pos (by omega), if_neg (by omega)]
  exact ⟨by congr 2; omega, by congr 2; omega⟩

/-- A register is named at its own address only. -/
theorem regAddr_of_cfgRegAt {a : Nat} {r : CfgReg} (h : cfgRegAt a = some r) : regAddr r = a := by
  unfold cfgRegAt at h
  split at h
  case h_48 =>
    split_ifs at h <;> cases h <;> simp only [regAddr] <;> omega
  all_goals cases h; rfl

/-- The occupied ranges of 10_state.md R50. -/
theorem cfgRegAt_isSome_iff (a : Nat) :
    (cfgRegAt a).isSome = true ↔
      a ≤ 0x0003 ∨ (0x0008 ≤ a ∧ a ≤ 0x000B) ∨ (0x0100 ≤ a ∧ a ≤ 0x0104) ∨ (0x0108 ≤ a ∧ a ≤ 0x010E) ∨
      (0x0110 ≤ a ∧ a ≤ 0x0114) ∨ a = 0x0118 ∨ (0x011C ≤ a ∧ a ≤ 0x011F) ∨ (0x0200 ≤ a ∧ a ≤ 0x0204) ∨
      (0x0208 ≤ a ∧ a ≤ 0x020C) ∨ (0x0300 ≤ a ∧ a ≤ 0x0301) ∨ (0x0308 ≤ a ∧ a ≤ 0x030B) ∨
      (0x0400 ≤ a ∧ a ≤ 0x0431) ∨ (0x0480 ≤ a ∧ a ≤ 0x04FF) ∨ a = 0x0500 := by
  unfold cfgRegAt
  split
  case h_48 =>
    simp only [imp_false] at *
    split_ifs <;> simp only [Option.isSome_some, Option.isSome_none, Bool.false_eq_true, true_iff, false_iff] <;> omega
  all_goals simp

end Sys2Proof.Machine

open Sys2Proof.Machine in
/-- Settles O54: the ranges and the rows by the cases of `cfgRegAt`, and no register twice because `regAddr` gives its
address back. -/
theorem registerAddresses : Obligations.RegisterAddresses := by
  unfold Obligations.RegisterAddresses
  refine ⟨cfgRegAt_isSome_iff, fun a b r ha hb => ?_, by decide, fun k => cfgRegAt_refSof, fun k => cfgRegAt_refPlsc⟩
  exact (regAddr_of_cfgRegAt ha).symm.trans (regAddr_of_cfgRegAt hb)
end

/-! PROOFS. Facts about binary32 that later proofs use: the fields of a pattern, what `roundRatio` returns where it is
exact and where the ratio is at most 1, and `fracR` as a fraction of a turn (46_numerics.md R260, 00_scope.md R12). -/
section
namespace Sys2Proof.Machine

/-! The fields of a pattern -/

/-- The magnitude in units of 2^-149 that magnitude bits stand for. -/
def magValue (b : Nat) : Nat :=
  if b / 2 ^ 23 = 0 then b else (2 ^ 23 + b % 2 ^ 23) * 2 ^ (b / 2 ^ 23 - 1)

theorem magUnits_eq_magValue (x : Real32) : magUnits x = magValue (magBits x) := by
  have hexp : expField x = magBits x / 2 ^ 23 := by simp only [expField, magBits]; omega
  have hfrac : fracField x = magBits x % 2 ^ 23 := by simp only [fracField, magBits]; omega
  unfold magUnits magValue
  rw [hexp, hfrac]
  split <;> omega

/-- A significand of at most 24 bits above `k` exponent steps, a carry into the next binade included. -/
theorem magValue_add {k m : Nat} (hm : m ≤ 2 ^ 24) (hk : k = 0 ∨ 2 ^ 23 ≤ m) :
    magValue (k * 2 ^ 23 + m) = m * 2 ^ k := by
  have hcases : (k = 0 ∧ m < 2 ^ 23) ∨ (2 ^ 23 ≤ m ∧ m < 2 ^ 24) ∨ m = 2 ^ 24 := by omega
  unfold magValue
  rcases hcases with ⟨rfl, hlt⟩ | ⟨hge, hlt⟩ | rfl
  · rw [if_pos (by omega)]
    omega
  · have hdiv : (k * 2 ^ 23 + m) / 2 ^ 23 = k + 1 := by omega
    have hmod : 2 ^ 23 + (k * 2 ^ 23 + m) % 2 ^ 23 = m := by omega
    rw [hdiv, hmod, if_neg (by omega), Nat.add_sub_cancel]
  · have hdiv : (k * 2 ^ 23 + 2 ^ 24) / 2 ^ 23 = k + 2 := by omega
    have hmod : 2 ^ 23 + (k * 2 ^ 23 + 2 ^ 24) % 2 ^ 23 = 2 ^ 23 := by omega
    rw [hdiv, hmod, if_neg (by omega), show k + 2 - 1 = k + 1 by omega, pow_succ 2 k]
    ring

/-- Every magnitude is a significand below 2^24 above some exponent steps. -/
theorem magBits_split (b : Nat) : ∃ k m, b = k * 2 ^ 23 + m ∧ m < 2 ^ 24 ∧ (k = 0 ∨ 2 ^ 23 ≤ m) := by
  rcases Nat.lt_or_ge b (2 ^ 23) with hlt | hge
  · exact ⟨0, b, by omega, by omega, .inl rfl⟩
  · exact ⟨b / 2 ^ 23 - 1, 2 ^ 23 + b % 2 ^ 23, by omega, by omega, .inr (by omega)⟩

/-- The order of the magnitude bits is the order of the magnitudes. -/
theorem magValue_strictMono : StrictMono magValue := by
  refine strictMono_nat_of_lt_succ fun b => ?_
  obtain ⟨k, m, rfl, hm, hk⟩ := magBits_split b
  rw [magValue_add hm.le hk, Nat.add_assoc, magValue_add (by omega) (by omega)]
  exact Nat.mul_lt_mul_of_pos_right (Nat.lt_succ_self m) (Nat.two_pow_pos k)

@[simp] theorem magValue_zero : magValue 0 = 0 := rfl

/-- The magnitude bits of 1. -/
def oneBits : Nat := 127 * 2 ^ 23

theorem magValue_one : magValue oneBits = 2 ^ 149 := by decide

theorem signBit_eq_msb (x : Real32) : signBit x = x.msb := by
  simp [signBit, BitVec.msb_eq_decide]

@[simp] theorem magBits_rNeg (x : Real32) : magBits (rNeg x) = magBits x := by
  have h := @Nat.xor_mod_two_pow x.toNat 0x80000000 31
  simpa [magBits, rNeg] using h

@[simp] theorem signBit_rNeg (x : Real32) : signBit (rNeg x) = !signBit x := by
  have h : (0x80000000#32).msb = true := by decide
  simp only [signBit_eq_msb, rNeg, BitVec.msb_xor, h, Bool.xor_true]

@[simp] theorem isNaN_rNeg (x : Real32) : isNaN (rNeg x) = isNaN x := by simp [isNaN]

@[simp] theorem isInf_rNeg (x : Real32) : isInf (rNeg x) = isInf x := by simp [isInf]

@[simp] theorem isFinite_rNeg (x : Real32) : isFinite (rNeg x) = isFinite x := by simp [isFinite]

@[simp] theorem units_rNeg (x : Real32) : units (rNeg x) = -units x := by
  cases h : signBit x <;> simp [units, magUnits_eq_magValue, h]

theorem natAbs_units (x : Real32) : (units x).natAbs = magUnits x := by
  unfold units
  split <;> simp

/-- A value is a NaN, an infinity or finite. -/
theorem real_cases (x : Real32) :
    isNaN x = true ∨ (isNaN x = false ∧ isInf x = true) ∨
      (isNaN x = false ∧ isInf x = false ∧ isFinite x = true) := by
  simp only [isNaN, isInf, isFinite, decide_eq_true_eq, decide_eq_false_iff_not]
  omega

theorem not_nan_inf_of_finite {x : Real32} (h : isFinite x = true) : isNaN x = false ∧ isInf x = false := by
  simp only [isNaN, isInf, isFinite, decide_eq_true_eq, decide_eq_false_iff_not] at *
  omega

section packBits
variable (neg : Bool) {mag : Nat} (h : mag < 2 ^ 31)
include h

theorem toNat_packBits : (packBits neg mag).toNat = (if neg then 2 ^ 31 else 0) + mag := by
  cases neg <;> simp [packBits] <;> omega

theorem magBits_packBits : magBits (packBits neg mag) = mag := by
  rw [magBits, toNat_packBits neg h]
  cases neg <;> simp <;> omega

theorem signBit_packBits : signBit (packBits neg mag) = neg := by
  rw [signBit, toNat_packBits neg h]
  cases neg <;> simp; omega

end packBits

/-! Rounding -/

theorem signBit_roundRatio (neg : Bool) (num den : Nat) : signBit (roundRatio neg num den) = neg :=
  signBit_packBits neg (Nat.lt_of_le_of_lt (Nat.min_le_right _ _) (by decide))

@[simp] theorem roundRatio_zero (neg : Bool) (den : Nat) : roundRatio neg 0 den = packBits neg 0 := by
  simp [roundRatio, ulpExp]

/-- The rounded magnitude before the clamp at infinity: at most one significand step above the truncated one. -/
theorem magBits_roundRatio_le (neg : Bool) (num den : Nat) :
    magBits (roundRatio neg num den) ≤
      ulpExp (num / den) * 2 ^ 23 + num / (den * 2 ^ ulpExp (num / den)) + 1 := by
  unfold roundRatio
  dsimp only
  rw [magBits_packBits neg (Nat.lt_of_le_of_lt (Nat.min_le_right _ _) (by decide))]
  split <;> omega

/-- Where the spacing divides the magnitude, nothing is rounded away. -/
theorem magBits_roundRatio_of_dvd (neg : Bool) {num den : Nat}
    (h : num % (den * 2 ^ ulpExp (num / den)) = 0) (hd : 0 < den) :
    magBits (roundRatio neg num den) =
      min (ulpExp (num / den) * 2 ^ 23 + num / (den * 2 ^ ulpExp (num / den))) infBits := by
  have hpos : 0 < den * 2 ^ ulpExp (num / den) := Nat.mul_pos hd (Nat.two_pow_pos _)
  unfold roundRatio
  dsimp only
  rw [magBits_packBits neg (Nat.lt_of_le_of_lt (Nat.min_le_right _ _) (by decide)), h, if_neg (by omega)]

/-! The spacing of the values around a magnitude of `n` units: `n` has at most 24 bits above it, and exactly 24 where
the spacing is more than one unit. -/

theorem ulpExp_le {n k : Nat} (h : n < 2 ^ (24 + k)) : ulpExp n ≤ k := by
  rcases Nat.eq_zero_or_pos n with rfl | hpos
  · exact Nat.zero_le k
  · have := (Nat.log2_lt hpos.ne').2 h
    simp only [ulpExp]
    omega

theorem div_ulp_lt (n : Nat) : n / 2 ^ ulpExp n < 2 ^ 24 := by
  rw [Nat.div_lt_iff_lt_mul (Nat.two_pow_pos _), ← pow_add]
  refine Nat.lt_of_lt_of_le Nat.lt_log2_self (Nat.pow_le_pow_right (by decide) ?_)
  simp only [ulpExp]
  omega

theorem ulpExp_eq_zero_or_le_div_ulp (n : Nat) : ulpExp n = 0 ∨ 2 ^ 23 ≤ n / 2 ^ ulpExp n := by
  rcases Nat.eq_zero_or_pos (ulpExp n) with h0 | hpos
  · exact .inl h0
  · right
    have hn : n ≠ 0 := by
      rintro rfl
      cases hpos
    rw [Nat.le_div_iff_mul_le (Nat.two_pow_pos _), ← pow_add]
    refine le_trans (Nat.pow_le_pow_right (by decide) ?_) (Nat.log2_self_le hn)
    simp only [ulpExp] at hpos ⊢
    omega

/-- A whole number of units with a significand of 24 bits, below 2^128, is its own rounding. -/
theorem roundRatio_exact (neg : Bool) {m j : Nat} (hm : m < 2 ^ 24) (hj : j ≤ 253) :
    isFinite (roundRatio neg (m * 2 ^ j) 1) = true ∧ magUnits (roundRatio neg (m * 2 ^ j) 1) = m * 2 ^ j := by
  generalize hn : m * 2 ^ j = n
  have hlt : n < 2 ^ (24 + j) := by
    rw [← hn, pow_add]
    exact Nat.mul_lt_mul_of_pos_right hm (Nat.two_pow_pos j)
  have hkj : ulpExp n ≤ j := ulpExp_le hlt
  have hdvd : 2 ^ ulpExp n ∣ n := (Dvd.dvd.mul_left (pow_dvd_pow 2 hkj) m).trans hn.dvd
  have hquot := div_ulp_lt n
  have hfin : ulpExp n * 2 ^ 23 + n / 2 ^ ulpExp n < infBits := by
    have hinf : infBits = 253 * 2 ^ 23 + 2 ^ 24 := rfl
    omega
  have hbits : magBits (roundRatio neg n 1) = ulpExp n * 2 ^ 23 + n / 2 ^ ulpExp n := by
    have h := magBits_roundRatio_of_dvd neg (num := n) (den := 1)
      (by rw [Nat.div_one, Nat.one_mul]; exact Nat.mod_eq_zero_of_dvd hdvd) Nat.one_pos
    rw [Nat.div_one, Nat.one_mul] at h
    exact h.trans (Nat.min_eq_left hfin.le)
  refine ⟨?_, ?_⟩
  · rw [isFinite, hbits]
    exact decide_eq_true hfin
  · rw [magUnits_eq_magValue, hbits, magValue_add hquot.le (ulpExp_eq_zero_or_le_div_ulp n),
      Nat.div_mul_cancel hdvd]

/-- The same with the sign: the rounding of a signed whole number of units is that number. -/
theorem units_roundRatio_exact {i : Int} {m j : Nat} (hi : i.natAbs = m * 2 ^ j) (hm : m < 2 ^ 24)
    (hj : j ≤ 253) :
    isFinite (roundRatio (decide (i < 0)) i.natAbs 1) = true ∧
      units (roundRatio (decide (i < 0)) i.natAbs 1) = i := by
  obtain ⟨hf, hu⟩ := roundRatio_exact (decide (i < 0)) hm hj
  rw [hi]
  refine ⟨hf, ?_⟩
  rw [units, signBit_roundRatio, hu, ← hi]
  simp only [decide_eq_true_eq]
  split <;> omega

/-- A ratio of at most 1 rounds to at most 1. -/
theorem magBits_roundRatio_le_one (neg : Bool) {num den : Nat} (hd : 0 < den) (h : num ≤ den * 2 ^ 149) :
    magBits (roundRatio neg num den) ≤ oneBits := by
  rcases Nat.lt_or_eq_of_le h with hlt | rfl
  · have hq : num / den < 2 ^ 149 := (Nat.div_lt_iff_lt_mul hd).2 (by rwa [Nat.mul_comm])
    have hk : ulpExp (num / den) ≤ 125 := ulpExp_le hq
    have hm : num / (den * 2 ^ ulpExp (num / den)) < 2 ^ 24 := by
      rw [← Nat.div_div_eq_div_mul]
      exact div_ulp_lt _
    have := magBits_roundRatio_le neg num den
    simp only [oneBits]
    omega
  · have hq : den * 2 ^ 149 / den = 2 ^ 149 := Nat.mul_div_cancel_left _ hd
    have hk : ulpExp (2 ^ 149) = 126 := by simp only [ulpExp, Nat.log2_two_pow]
    have hsplit : den * 2 ^ 149 = den * 2 ^ 126 * 2 ^ 23 := by rw [Nat.mul_assoc, ← pow_add]
    have hpos : 0 < den * 2 ^ 126 := Nat.mul_pos hd (Nat.two_pow_pos _)
    have hbits := magBits_roundRatio_of_dvd neg (num := den * 2 ^ 149) (den := den)
      (by rw [hq, hk, hsplit, Nat.mul_mod_right]) hd
    rw [hq, hk, hsplit, Nat.mul_div_cancel_left _ hpos, ← hsplit] at hbits
    rw [hbits]
    exact (Nat.min_le_left _ _).trans (by decide)

/-! Values between 0 and 1 -/

/-- The patterns of the values of [0, 1], the negative zero included. -/
def InUnit (x : Real32) : Prop := magBits x ≤ oneBits ∧ (signBit x = true → magBits x = 0)

/-- A NaN, or a fraction of a turn (10_state.md R25). -/
abbrev IsPhase (x : Real32) : Prop := isNaN x = true ∨ InUnit x

theorem inUnit_zero : InUnit rZero := ⟨by decide, by decide⟩

theorem isFinite_of_inUnit {x : Real32} (h : InUnit x) : isFinite x = true :=
  decide_eq_true (Nat.lt_of_le_of_lt h.1 (by decide))

theorem inUnit_iff_units (x : Real32) : InUnit x ↔ 0 ≤ units x ∧ units x ≤ 2 ^ 149 := by
  have hone : magUnits x ≤ 2 ^ 149 ↔ magBits x ≤ oneBits := by
    rw [magUnits_eq_magValue, ← magValue_one, magValue_strictMono.le_iff_le]
  have hzero : magUnits x = 0 ↔ magBits x = 0 := by
    rw [magUnits_eq_magValue]
    exact magValue_strictMono.injective.eq_iff' magValue_zero
  cases hs : signBit x with
  | false =>
    simp only [InUnit, units, hs, Bool.false_eq_true, false_imp_iff, and_true, if_false]
    omega
  | true =>
    simp only [InUnit, units, hs, true_imp_iff, if_true]
    omega

/-- `InUnit` is the range of 10_state.md R25 with its upper bound. -/
theorem inUnit_iff (x : Real32) : InUnit x ↔ isFinite x = true ∧ 0 ≤ valueOf x ∧ valueOf x ≤ 1 := by
  have hpow : (0 : ℚ) < 2 ^ 149 := by positivity
  have hlow : 0 ≤ valueOf x ↔ 0 ≤ units x := by
    rw [valueOf, le_div_iff₀ hpow, zero_mul, Int.cast_nonneg_iff]
  have hhigh : valueOf x ≤ 1 ↔ units x ≤ 2 ^ 149 := by
    rw [valueOf, div_le_one hpow]
    exact_mod_cast Iff.rfl
  rw [hlow, hhigh, ← inUnit_iff_units]
  exact ⟨fun h => ⟨isFinite_of_inUnit h, h⟩, And.right⟩

/-- The floor of a finite value is exact: a large value is its own floor, a small floor has a short significand. -/
theorem rFloor_of_finite {v : Real32} (hv : isFinite v = true) :
    isFinite (rFloor v) = true ∧ units (rFloor v) = units v / 2 ^ 149 * 2 ^ 149 := by
  unfold rFloor
  rw [if_pos hv]
  dsimp only
  split
  case isTrue h0 =>
    rw [h0]
    cases signBit v <;> exact ⟨by decide, by decide⟩
  case isFalse h0 =>
    obtain ⟨k, m, hb, hm, hk⟩ := magBits_split (magBits v)
    have hunits : (units v).natAbs = m * 2 ^ k := by
      rw [natAbs_units, magUnits_eq_magValue, hb, magValue_add hm.le hk]
    have hk253 : k ≤ 253 := by
      have hfin : magBits v < infBits := of_decide_eq_true hv
      have hinf : infBits = 253 * 2 ^ 23 + 2 ^ 24 := rfl
      omega
    generalize hf : units v / 2 ^ 149 = f
    have hnat : f.natAbs * 2 ^ 149 = (f * 2 ^ 149).natAbs := by rw [Int.natAbs_mul]; rfl
    have hneg : decide (f < 0) = decide (f * 2 ^ 149 < 0) := by
      rw [decide_eq_decide]
      omega
    rw [hnat, hneg]
    rcases Nat.lt_or_ge k 149 with hsmall | hlarge
    · have hbound : (units v).natAbs < 2 ^ 172 :=
        calc (units v).natAbs = m * 2 ^ k := hunits
          _ ≤ m * 2 ^ 148 := Nat.mul_le_mul_left m (Nat.pow_le_pow_right (by decide) (by omega))
          _ < 2 ^ 172 := by omega
      exact units_roundRatio_exact (m := f.natAbs) (j := 149) hnat.symm (by omega) (by decide)
    · have hdvd : (2 ^ 149 : Int) ∣ units v := by
        rw [← Int.natAbs_dvd_natAbs, hunits]
        exact Dvd.dvd.mul_left (pow_dvd_pow 2 hlarge) m
      have hself : f * 2 ^ 149 = units v := hf ▸ Int.ediv_mul_cancel hdvd
      rw [hself]
      exact units_roundRatio_exact hunits hm hk253

theorem rSub_nan {a b : Real32} (h : isNaN a = true ∨ isNaN b = true) : isNaN (rSub a b) = true := by
  simp [rSub, addAs, h]

/-- The difference of two finite values: the exact one, rounded once. -/
theorem rSub_of_finite {a b : Real32} (ha : isFinite a = true) (hb : isFinite b = true) :
    rSub a b =
      if units a - units b = 0 then (if signBit a ∧ signBit (rNeg b) then rNegZero else rZero)
      else roundRatio (decide (units a - units b < 0)) (units a - units b).natAbs 1 := by
  obtain ⟨hna, hia⟩ := not_nan_inf_of_finite ha
  obtain ⟨hnb, hib⟩ := not_nan_inf_of_finite hb
  simp [rSub, addAs, hna, hia, hnb, hib, sub_eq_add_neg]

/-- `fracR` of any value is a NaN or lies in [0, 1]; rounding alone reaches 1 (assumption log 5). -/
theorem rFrac_isPhase (v : Real32) : IsPhase (rFrac v) := by
  unfold rFrac
  rcases real_cases v with hnan | ⟨hnan, hinf⟩ | ⟨-, -, hfin⟩
  · exact .inl (rSub_nan (.inl hnan))
  · have hnf : isFinite v = false := by
      simp only [isInf, isFinite, decide_eq_true_eq, decide_eq_false_iff_not] at *
      omega
    left
    simp [hnf, rSub, addAs, hnan, hinf]
  · right
    obtain ⟨hffin, hfloor⟩ := rFloor_of_finite hfin
    rw [rSub_of_finite hfin hffin, hfloor]
    have hmod : units v - units v / 2 ^ 149 * 2 ^ 149 = units v % 2 ^ 149 := by omega
    rw [hmod]
    generalize hu : units v % 2 ^ 149 = u
    split
    · split
      · exact ⟨by decide, by decide⟩
      · exact inUnit_zero
    · rw [decide_eq_false (by omega)]
      refine ⟨magBits_roundRatio_le_one false Nat.one_pos (by omega), ?_⟩
      rw [signBit_roundRatio]
      exact nofun

/-- A value of [0, 1] divided by a greater value stays in [0, 1]. -/
theorem rDiv_inUnit {a b : Real32} (ha : InUnit a) (hlt : rLt a b = true) : InUnit (rDiv a b) := by
  obtain ⟨hna, hia⟩ := not_nan_inf_of_finite (isFinite_of_inUnit ha)
  obtain ⟨-, hsa⟩ := ha
  simp only [rLt, Bool.and_eq_true, Bool.not_eq_true', decide_eq_true_eq] at hlt
  obtain ⟨⟨-, hnb⟩, hkey⟩ := hlt
  have hkeya : orderKey a = magBits a := by
    unfold orderKey
    split
    · rw [hsa ‹_›]; rfl
    · rfl
  rw [hkeya] at hkey
  have hsb : signBit b = false := by
    cases hs : signBit b with
    | false => rfl
    | true => simp only [orderKey, hs, if_true] at hkey; omega
  have hmag : magBits a < magBits b := by
    simp only [orderKey, hsb, Bool.false_eq_true, if_false] at hkey
    omega
  have hzb : isZero b = false := decide_eq_false (by omega)
  simp only [rDiv, hna, hnb, hia, hzb, hsb, Bool.false_eq_true, or_self, if_false, Bool.bne_false]
  split
  · exact ⟨by rw [magBits_packBits _ (by decide)]; exact Nat.zero_le _, fun _ => magBits_packBits _ (by decide)⟩
  · have hunits : magUnits a < magUnits b := by
      rw [magUnits_eq_magValue, magUnits_eq_magValue]
      exact magValue_strictMono hmag
    refine ⟨magBits_roundRatio_le_one _ (by omega) (Nat.mul_le_mul_right _ hunits.le), fun hs => ?_⟩
    have hzero : magUnits a = 0 := by
      rw [signBit_roundRatio] at hs
      rw [magUnits_eq_magValue, hsa hs]
      rfl
    rw [hzero, Nat.zero_mul, roundRatio_zero, magBits_packBits _ (by decide)]

end Sys2Proof.Machine
end

/-! PROOFS. Invariants of a run: what has to be shown of an invariant, said once, and the phases of the two loops. -/
section
namespace Sys2Proof.Machine

/-- What holds after the `BadAccess` of the phase and after the rule holds after the operation. -/
theorem runOp_keeps {P : State → Prop} {i : Instr} {body : State → State} {s t : State}
    (hfault : P (takeFault .badAccess s))
    (hbody : permittedIn i s.sys.phase = true → dinWords s i ≤ s.din.length → P (body s))
    (h : runOp i body s = .next t) : P t := by
  rcases runOp_next h with ⟨hp, hd, rfl⟩ | ⟨-, rfl⟩
  · exact hbody hp hd
  · exact hfault

/-- An invariant of every step: it holds after `RST`, it does not read `CMD`, and an unimplemented word and every
operation keep it. -/
theorem step_keeps {P : State → Prop} {s t : State} (hreset : P (hardwareReset s))
    (hcmd : ∀ rest, P { s with cmd := rest })
    (hfault : ∀ u, P u → P (takeFault .unimplemented u))
    (hexec : ∀ i u, P u → exec i u = .next t → P t)
    (h : step s = .next t) : P t := by
  rcases step_cases s with ⟨-, e⟩ | ⟨-, -, e⟩ | ⟨-, cw, rest, -, ⟨-, -, e⟩ | ⟨i, -, e⟩⟩
  · rw [e] at h
    cases h
    exact hreset
  · rw [e] at h
    cases h
  · rw [e] at h
    cases h
    exact hfault _ (hcmd rest)
  · exact hexec i _ (hcmd rest) (e ▸ h)

/-- One sample of `SYN.SYNC` is a rotation, a Gardner step and perhaps a strobe: what all three keep, it keeps. -/
theorem synSample_keeps {P : State → Prop} {s : State}
    (hrot : ∀ u m, P u → P { u with cfr := cfrAdvance u.cfr, mf := m })
    (hgar : ∀ u z, P u → P (garStep u z).state) (hstrobe : ∀ u y, P u → P (synStrobe y u)) (h : P s) (x : C) :
    P (synSample s x) := by
  have hstep := hgar _ (mfStep s.mf (cfrRotated s.cfr x)).2 (hrot s (mfStep s.mf (cfrRotated s.cfr x)).1 h)
  unfold synSample
  dsimp only
  split
  · exact hstrobe _ _ hstep
  · exact hstep

/-! The phases of the two loops -/

/-- `gar.nco` and `cfr.theta` are NaNs or fractions of a turn, and `gar.mu` is a fraction of a sample. -/
structure PhasesInTurn (g : Gar) (c : Cfr) : Prop where
  nco : IsPhase g.nco
  mu : InUnit g.mu
  theta : IsPhase c.theta

/-- The phases of a block are in their turn. -/
abbrev InTurn (s : State) : Prop := PhasesInTurn s.gar s.cfr

/-- GAR before the detector of a Gardner step: the symbol noted, and pushed to the ring on a strobe (41_gardner.md
R131 lines 2 to 4). -/
def garPushed (s : State) (y : C) : Gar :=
  if s.gar.isStrobe then oringPush (oringCap s) y { s.gar with lastSym := y } else { s.gar with lastSym := y }

theorem garAfter_eq (s : State) (y : C) :
    garAfter s y =
      interpControl (invOsf s) (loopFilter (tedUpdate (osf s) y s.gar.isStrobe (garPushed s y))) := rfl

/-- Before the detector only the last symbol, the ring and the overflow counter have changed. -/
theorem garPushed_frame (s : State) (y : C) :
    garPushed s y =
      { s.gar with lastSym := y, oring := (garPushed s y).oring, ovfCnt := (garPushed s y).ovfCnt } := by
  unfold garPushed
  split
  · rw [oringPush_frame]
  · rfl

/-- The interpolation control keeps the NCO a fraction of a turn, and `mu` a fraction of a sample: `mu` is a quotient
only where the NCO is below the divisor. -/
theorem interpControl_inTurn {inv : Real32} {g : Gar} {c : Cfr} (h : PhasesInTurn g c) :
    PhasesInTurn (interpControl inv g) c := by
  refine ⟨rFrac_isPhase _, ?_, h.theta⟩
  have hmu : (interpControl inv g).mu =
      if rLt g.nco (rAdd g.lfOut inv) then rDiv g.nco (rAdd g.lfOut inv) else g.mu := rfl
  rw [hmu]
  cases hlt : rLt g.nco (rAdd g.lfOut inv) with
  | false => exact h.mu
  | true =>
    rcases h.nco with hnan | hunit
    · rw [rLt_nan (.inl hnan)] at hlt
      cases hlt
    · exact rDiv_inUnit hunit hlt

theorem garAfter_inTurn {s : State} {c : Cfr} (h : PhasesInTurn s.gar c) (y : C) :
    PhasesInTurn (garAfter s y) c := by
  have hpushed : PhasesInTurn (garPushed s y) c := by
    rw [garPushed_frame]
    exact ⟨h.nco, h.mu, h.theta⟩
  rw [garAfter_eq]
  exact interpControl_inTurn ⟨hpushed.nco, hpushed.mu, hpushed.theta⟩

theorem garCleared_inTurn {c : Cfr} (h : IsPhase c.theta) (width : Nat) (g : Gar) :
    PhasesInTurn (garCleared width g) c :=
  ⟨.inr inUnit_zero, inUnit_zero, h⟩

theorem cfrRotateBlock_isPhase (xs : List C) {c : Cfr} (h : IsPhase c.theta) :
    IsPhase (cfrRotateBlock c xs).2.theta := by
  induction xs generalizing c with
  | nil => exact h
  | cons x xs ih => exact ih (rFrac_isPhase _)

theorem garStep_inTurn {s : State} (h : InTurn s) (x : C) : InTurn (garStep s x).state :=
  garAfter_inTurn h _

theorem synStrobe_inTurn {s : State} (h : InTurn s) (y : C) : InTurn (synStrobe y s) := by
  refine ⟨h.nco, h.mu, ?_⟩
  unfold synStrobe
  dsimp only
  split
  · rw [(cfrUpdate_keeps y s.cfr).1]
    exact h.theta
  · exact h.theta

theorem synSample_inTurn {s : State} (h : InTurn s) (x : C) : InTurn (synSample s x) :=
  synSample_keeps (P := InTurn) (fun _ _ hu => ⟨hu.nco, hu.mu, rFrac_isPhase _⟩) (fun _ z hu => garStep_inTurn hu z)
    (fun _ y hu => synStrobe_inTurn hu y) h x

/-- A write to a register reaches neither the Gardner phases nor the rotator's. -/
theorem cfgWrite_inTurn {s : State} (h : InTurn s) (r : CfgReg) (v : Word) : InTurn (cfgWrite r v s) := by
  cases r <;> exact ⟨h.nco, h.mu, h.theta⟩

theorem finish_inTurn {s : State} (h : InTurn s) (st : Status) : InTurn (finish st s) := by
  unfold InTurn
  rw [finish_gar, finish_cfr]
  exact h

theorem writeReg_inTurn {s : State} (h : InTurn s) (a : Nat) (v : Word) : InTurn (writeReg a v s) := by
  unfold writeReg
  split
  · exact h
  · split
    · exact cfgWrite_inTurn h _ v
    · exact h

theorem foldl_garStep_inTurn (xs : List C) {s : State} (h : InTurn s) :
    InTurn (xs.foldl (fun t x => (garStep t x).state) s) :=
  List.foldlRecOn (motive := InTurn) xs _ h fun _ hu x _ => garStep_inTurn hu x

theorem foldl_synSample_inTurn (xs : List C) {s : State} (h : InTurn s) : InTurn (xs.foldl synSample s) :=
  List.foldlRecOn (motive := InTurn) xs _ h fun _ hu x _ => synSample_inTurn hu x

theorem exec_inTurn {i : Instr} {s t : State} (h : InTurn s) (he : exec i s = .next t) : InTurn t := by
  have keeps : ∀ {body : State → State}, runOp i body s = .next t → InTurn (body s) → InTurn t :=
    fun hrun hbody => runOp_keeps (P := InTurn) h (fun _ _ => hbody) hrun
  cases i <;> dsimp only [exec] at he
  case sysBuild =>
    refine keeps he ?_
    split
    · exact garCleared_inTurn (.inr inUnit_zero) _ _
    · exact h
  case sysReset => exact keeps he (garCleared_inTurn (.inr inUnit_zero) _ _)
  case cfgWr a => exact keeps he (writeReg_inTurn (s := (popWord s).2) h a _)
  case cfgRd a =>
    refine keeps he ?_
    split <;> exact h
  case farStep => exact keeps he h
  case farSetmu => exact keeps he h
  case farReset => exact keeps he h
  case garStep => exact keeps he (garStep_inTurn (s := (popC s).2) h _)
  case garSync => exact keeps he (foldl_garStep_inTurn _ h)
  case garExtract =>
    refine keeps he (finish_inTurn ?_ _)
    exact ⟨h.nco, h.mu, h.theta⟩
  case garReset => exact keeps he (garCleared_inTurn h.theta _ _)
  case cfrStep => exact keeps he ⟨h.nco, h.mu, rFrac_isPhase _⟩
  case cfrSync => exact keeps he ⟨h.nco, h.mu, cfrRotateBlock_isPhase _ h.theta⟩
  case cfrUpd =>
    refine keeps he ⟨h.nco, h.mu, ?_⟩
    rw [finish_cfr, (cfrUpdate_keeps _ _).1]
    exact h.theta
  case cfrReset => exact keeps he ⟨h.nco, h.mu, .inr inUnit_zero⟩
  case frmSync => exact keeps he h
  case frmReset => exact keeps he h
  case synSync =>
    have hblock := foldl_synSample_inTurn (popBlock (nSmp s) s).1 (s := (popBlock (nSmp s) s).2) h
    refine keeps he (finish_inTurn ?_ _)
    exact ⟨hblock.nco, hblock.mu, hblock.theta⟩
  case synReset => exact keeps he (garCleared_inTurn (.inr inUnit_zero) _ _)

end Sys2Proof.Machine

open Sys2Proof.Machine in
/-- Settles O19: a phase is always the fraction of some value, and `mu` a quotient by a greater value. -/
theorem stepKeepsPhasesInTurn : Obligations.StepKeepsPhasesInTurn := by
  unfold Obligations.StepKeepsPhasesInTurn
  simp only [← inUnit_iff]
  intro s t hnco hmu htheta hstep
  have hturn : InTurn t :=
    step_keeps (P := InTurn) ⟨.inr inUnit_zero, inUnit_zero, .inr inUnit_zero⟩
      (fun _ => ⟨hnco, hmu, htheta⟩) (fun _ hu => hu) (fun _ _ hu he => exec_inTurn hu he) hstep
  exact ⟨hturn.nco, hturn.mu, hturn.theta⟩
end

/-! PROOFS. The shape of every state a run reaches (10_state.md R25, R34, R38): the shape of each unit with its size,
what every procedure makes of it, and the step. -/
section
namespace Sys2Proof.Machine

/-! The shape of a unit -/

/-- GAR as constructed with a window of `width` entries and a ring for `cap` symbols. -/
structure GarShape (width cap : Nat) (g : Gar) : Prop where
  gains : isFinite g.kp = true ∧ isFinite g.ki = true
  ted : g.ted.length = width
  sh : g.sh < 2 ^ width
  ring : g.oring.length ≤ cap

/-- FRM as constructed for blocks of `n` symbols. -/
structure FrmShape (n : Nat) (f : Frm) : Prop where
  hist : f.hist.length = hdrLen
  refSof : f.refSof.length = sofLen
  refPlsc : f.refPlsc.length = plscLen
  cs : f.cs.length = n
  dl : f.dl.length = n
  delay : f.delay < n
  maxIdx : f.maxIdx < n

/-- The constructed block, unit by unit. -/
structure BuiltShape (y : Sys) (g : Gar) (c : Cfr) (f : Frm) (n : Syn) : Prop where
  phase : y.phase = .run
  config : validConfig y = true
  gar : GarShape (natOfInt32 y.osf) (natOfInt32 y.oringCap) g
  cfrGains : isFinite c.kp = true ∧ isFinite c.ki = true
  frm : FrmShape (natOfInt32 y.nsym) f
  symIdx : n.symIdx < natOfInt32 y.nsym

/-- The constructed block: its shape reads SYS, GAR, CFR, FRM and SYN, so a state that differs elsewhere only has the
same shape by definition. -/
abbrev BlockShape (s : State) : Prop := BuiltShape s.sys s.gar s.cfr s.frm s.syn

theorem Shaped.block {s : State} (h : Shaped s) (hp : s.sys.phase = .run) : BlockShape s := by
  obtain ⟨⟨hhist, hsof, hplsc⟩, hrun, -⟩ := h
  obtain ⟨hconfig, hgar, hcfr, hted, hsh, hring, hcs, hdl, hdelay, hidx, hsym⟩ := hrun hp
  exact ⟨hp, hconfig, ⟨hgar, hted, hsh, hring⟩, hcfr, ⟨hhist, hsof, hplsc, hcs, hdl, hdelay, hidx⟩, hsym⟩

theorem BlockShape.shaped {s : State} (h : BlockShape s) : Shaped s := by
  obtain ⟨hp, hconfig, ⟨hgar, hted, hsh, hring⟩, hcfr, ⟨hhist, hsof, hplsc, hcs, hdl, hdelay, hidx⟩, hsym⟩ := h
  exact ⟨⟨hhist, hsof, hplsc⟩, fun _ => ⟨hconfig, hgar, hcfr, hted, hsh, hring, hcs, hdl, hdelay, hidx, hsym⟩,
    fun hn => absurd hp hn⟩

/-- A valid configuration has samples and symbols, and a ring for a whole block (45_system_ops.md R237). -/
theorem sizes_of_validConfig {s : State} (h : validConfig s.sys = true) :
    0 < osf s ∧ 0 < nSym s ∧ nSym s ≤ oringCap s := by
  simp only [validConfig, Bool.and_eq_true, decide_eq_true_eq] at h
  simp only [osf, nSym, oringCap, natOfInt32]
  omega

/-! GAR -/

theorem strobeHistory_lt {width : Nat} (hw : 0 < width) (b : Bool) (sh : Nat) :
    strobeHistory width b sh < 2 ^ width := by
  refine Nat.or_lt_two_pow (Nat.mod_lt _ (Nat.two_pow_pos width)) ?_
  have hone : 1 < 2 ^ width := Nat.one_lt_two_pow hw.ne'
  split <;> omega

/-- A ring with room for a symbol never holds more than its capacity. -/
theorem length_oringPush_le {cap : Nat} (hcap : 0 < cap) (z : C) {g : Gar} (h : g.oring.length ≤ cap) :
    (oringPush cap z g).oring.length ≤ cap := by
  rcases oringPush_cases cap z g with ⟨hfull, e, -⟩ | ⟨hroom, e, -⟩
  · rw [e, List.length_append, List.length_tail, List.length_singleton]
    omega
  · rw [e, List.length_append, List.length_singleton]
    omega

theorem garPushed_shape {s : State} (hcap : 0 < oringCap s) (h : GarShape (osf s) (oringCap s) s.gar) (y : C) :
    GarShape (osf s) (oringCap s) (garPushed s y) := by
  have hring : (garPushed s y).oring.length ≤ oringCap s := by
    unfold garPushed
    split
    · exact length_oringPush_le hcap y h.ring
    · exact h.ring
  rw [garPushed_frame]
  exact ⟨h.gains, h.ted, h.sh, hring⟩

theorem garAfter_shape {s : State} (hw : 0 < osf s) (hcap : 0 < oringCap s)
    (h : GarShape (osf s) (oringCap s) s.gar) (y : C) : GarShape (osf s) (oringCap s) (garAfter s y) := by
  have hpushed := garPushed_shape hcap h y
  rw [garAfter_eq]
  exact ⟨hpushed.gains, (length_tedUpdate_ted _ _ _ _).trans hpushed.ted, strobeHistory_lt hw _ _, hpushed.ring⟩

theorem garDrain_shape {width cap : Nat} {g : Gar} (h : GarShape width cap g) (n : Nat) :
    GarShape width cap (garDrain n g) :=
  ⟨h.gains, h.ted, h.sh, by rw [garDrain_oring, List.length_drop]; exact (Nat.sub_le _ _).trans h.ring⟩

theorem garCleared_shape (width cap : Nat) {g : Gar} (h : isFinite g.kp = true ∧ isFinite g.ki = true) :
    GarShape width cap (garCleared width g) :=
  ⟨h, List.length_replicate, Nat.two_pow_pos width, Nat.zero_le cap⟩

/-! CFR -/

theorem cfrUpdate_gains {c : Cfr} (p : C) (h : isFinite c.kp = true ∧ isFinite c.ki = true) :
    isFinite (cfrUpdate p c).kp = true ∧ isFinite (cfrUpdate p c).ki = true := by
  obtain ⟨-, -, hkp, hki⟩ := cfrUpdate_keeps p c
  rwa [hkp, hki]

theorem cfrRotateBlock_gains {c : Cfr} (xs : List C) (h : isFinite c.kp = true ∧ isFinite c.ki = true) :
    isFinite (cfrRotateBlock c xs).2.kp = true ∧ isFinite (cfrRotateBlock c xs).2.ki = true := by
  rw [cfrRotateBlock_frame]
  exact h

/-! FRM -/

theorem peakFrom_lt {n i : Nat} {best : Nat × Real32} (cs : List Real32) (hbest : best.1 < n)
    (hlen : i + cs.length ≤ n) : (peakFrom i best cs).1 < n := by
  induction cs generalizing i best with
  | nil => exact hbest
  | cons c cs ih =>
    rw [List.length_cons] at hlen
    refine ih ?_ (by omega)
    split
    · show i < n
      omega
    · exact hbest

/-- The peak is an index of the vector. -/
theorem peak_lt {cs : List Real32} (h : 0 < cs.length) : (peak cs).1 < cs.length :=
  peakFrom_lt cs.tail h (by rw [List.length_tail]; omega)

theorem frameDelay_lt {n : Nat} (hn : 0 < n) (maxIdx : Nat) : frameDelay n maxIdx < n := by
  have hlt := Int.emod_lt_of_pos ((n : Int) + maxIdx - hdrLen) (Int.natCast_pos.2 hn)
  unfold frameDelay
  omega

theorem frmAfter_shape {n : Nat} {f : Frm} {xs : List C} (hn : 0 < n) (h : FrmShape n f) (hxs : xs.length = n) :
    FrmShape n (frmAfter n xs f) := by
  obtain ⟨hcs, hhist⟩ := length_frmPositions f.refSof f.refPlsc f.alpha f.hist f.cs xs
  have hlen := hcs.trans h.cs
  exact ⟨hhist.trans h.hist, h.refSof, h.refPlsc, hlen, hxs, frameDelay_lt hn _,
    hlen ▸ peak_lt (Nat.lt_of_lt_of_eq hn hlen.symm)⟩

theorem frmCleared_shape {n : Nat} {f : Frm} (hn : 0 < n) (hsof : f.refSof.length = sofLen)
    (hplsc : f.refPlsc.length = plscLen) : FrmShape n (frmCleared n f) :=
  ⟨List.length_replicate, hsof, hplsc, List.length_replicate, List.length_replicate, hn, hn⟩

/-! The procedures of the constructed block -/

theorem garStep_shape {s : State} (h : BlockShape s) (x : C) : BlockShape (garStep s x).state := by
  obtain ⟨hosf, hsym, hcap⟩ := sizes_of_validConfig h.config
  exact ⟨h.phase, h.config, garAfter_shape hosf (by omega) h.gar _, h.cfrGains, h.frm, h.symIdx⟩

theorem synStrobe_shape {s : State} (h : BlockShape s) (y : C) : BlockShape (synStrobe y s) := by
  obtain ⟨-, hsym, -⟩ := sizes_of_validConfig h.config
  refine ⟨h.phase, h.config, h.gar, ?_, h.frm, Nat.mod_lt _ hsym⟩
  unfold synStrobe
  dsimp only
  split
  · exact cfrUpdate_gains y h.cfrGains
  · exact h.cfrGains

theorem synSample_shape {s : State} (h : BlockShape s) (x : C) : BlockShape (synSample s x) :=
  synSample_keeps (P := BlockShape) (fun _ _ hu => ⟨hu.phase, hu.config, hu.gar, hu.cfrGains, hu.frm, hu.symIdx⟩)
    (fun _ z hu => garStep_shape hu z) (fun _ y hu => synStrobe_shape hu y) h x

theorem sysReset_shape {s : State} (h : BlockShape s) : BlockShape (sysReset s) := by
  obtain ⟨-, hsym, -⟩ := sizes_of_validConfig h.config
  exact ⟨h.phase, h.config, garCleared_shape _ _ h.gar.gains, h.cfrGains,
    frmCleared_shape hsym h.frm.refSof h.frm.refPlsc, hsym⟩

/-- Both tests of `SYS.BUILD` passed make a constructed block. -/
theorem built_shape {s : State} (hfix : FixedShape s) (hok : buildOk s = true) : BlockShape (built s) := by
  simp only [buildOk, gainsFinite, Bool.and_eq_true] at hok
  obtain ⟨⟨hconfig, hgar⟩, hcfr⟩ := hok
  obtain ⟨-, hsym, -⟩ := sizes_of_validConfig hconfig
  exact ⟨rfl, hconfig, garCleared_shape _ _ hgar, hcfr, frmCleared_shape hsym hfix.refSof hfix.refPlsc, hsym⟩

/-! Ports and faults -/

/-- The shape does not read the ports. -/
theorem Shaped.of_units_eq {s u : State} (h : Shaped s) (hfar : u.far = s.far) (hgar : u.gar = s.gar)
    (hcfr : u.cfr = s.cfr) (hfrm : u.frm = s.frm) (hsyn : u.syn = s.syn) (hsys : u.sys = s.sys) : Shaped u := by
  obtain ⟨far, gar, cfr, frm, syn, sys, _, _, _, _, _, _⟩ := u
  subst hfar hgar hcfr hfrm hsyn hsys
  by_cases hp : s.sys.phase = .run
  · have hb := h.block hp
    exact BlockShape.shaped hb
  · have hi := h.idle hp
    exact ⟨⟨h.fixed.hist, h.fixed.refSof, h.fixed.refPlsc⟩, fun hrun => absurd hrun hp,
      fun _ => ⟨hi.far, hi.gar, hi.cfr, hi.frm, hi.syn⟩⟩

/-- A fault leaves the datapath; a `ConfigError` is raised only before construction. -/
theorem Shaped.takeFault {s : State} (h : Shaped s) {st : Status}
    (hst : st = .configError → s.sys.phase ≠ .run) : Shaped (takeFault st s) := by
  by_cases hp : s.sys.phase = .run
  · have hb := h.block hp
    have hphase := (recordFault_phase (fun e => hst e hp) s.sys).trans hp
    exact BlockShape.shaped ⟨hphase, hb.config, hb.gar, hb.cfrGains, hb.frm, hb.symIdx⟩
  · have hi := h.idle hp
    refine ⟨⟨h.fixed.hist, h.fixed.refSof, h.fixed.refPlsc⟩, fun hrun => ?_,
      fun _ => ⟨hi.far, hi.gar, hi.cfr, hi.frm, hi.syn⟩⟩
    by_cases he : st = .configError
    · subst he
      cases hrun
    · exact absurd ((recordFault_phase he s.sys).symm.trans hrun) hp

theorem Shaped.finish {s : State} (h : Shaped s) {st : Status} (hst : st ≠ .configError) : Shaped (finish st s) := by
  by_cases hok : st = .ok
  · subst hok
    exact h.of_units_eq rfl rfl rfl rfl rfl rfl
  · rw [finish_fault hok]
    exact h.takeFault fun e => absurd e hst

theorem BlockShape.finish {s : State} (h : BlockShape s) {st : Status} (hst : st ≠ .configError) :
    Shaped (finish st s) :=
  h.shaped.finish hst

/-- A drain ends with status 0 or 2. -/
theorem drainStatus_ne_configError (n : Nat) (g : Gar) : drainStatus n g ≠ .configError := by
  unfold drainStatus
  split <;> decide

/-! `CFG.WR` -/

/-- What a register write can reach: gains, the gate, FRM's parameters, the entries of the references and the frame
index; and SYS, but not its phase. -/
theorem cfgWrite_frame (r : CfgReg) (v : Word) (s : State) :
    (cfgWrite r v s).far = s.far ∧
    (cfgWrite r v s).gar = { s.gar with kp := (cfgWrite r v s).gar.kp, ki := (cfgWrite r v s).gar.ki } ∧
    (cfgWrite r v s).cfr = { s.cfr with
      active := (cfgWrite r v s).cfr.active, kp := (cfgWrite r v s).cfr.kp, ki := (cfgWrite r v s).cfr.ki } ∧
    (cfgWrite r v s).frm = { s.frm with
      alpha := (cfgWrite r v s).frm.alpha, trigger := (cfgWrite r v s).frm.trigger
      refSof := (cfgWrite r v s).frm.refSof, refPlsc := (cfgWrite r v s).frm.refPlsc } ∧
    (cfgWrite r v s).sys.phase = s.sys.phase := by
  cases r <;> exact ⟨rfl, rfl, rfl, rfl, rfl⟩

/-- A write to a reference symbol keeps the lengths of the references. -/
theorem length_cfgWrite_refs (r : CfgReg) (v : Word) (s : State) :
    (cfgWrite r v s).frm.refSof.length = s.frm.refSof.length ∧
    (cfgWrite r v s).frm.refPlsc.length = s.frm.refPlsc.length := by
  cases r
  case refSofRe k => exact ⟨List.length_modify _ _ _, rfl⟩
  case refSofIm k => exact ⟨List.length_modify _ _ _, rfl⟩
  case refPlscRe k => exact ⟨rfl, List.length_modify _ _ _⟩
  case refPlscIm k => exact ⟨rfl, List.length_modify _ _ _⟩
  all_goals exact ⟨rfl, rfl⟩

/-- Only the frame-index register moves the frame index. -/
theorem cfgWrite_syn {r : CfgReg} (h : r ≠ .synSymIdx) (v : Word) (s : State) : (cfgWrite r v s).syn = s.syn := by
  cases r
  case synSymIdx => exact absurd rfl h
  all_goals rfl

/-- In phase RUN two registers are writable (10_state.md R50, class `rw`). -/
theorem cfgWritable_run {r : CfgReg} (h : cfgWritable r .run = true) : r = .cfrActive ∨ r = .synSymIdx := by
  cases r
  case cfrActive => exact .inl rfl
  case synSymIdx => exact .inr rfl
  all_goals cases h

/-- The values the frame-index register takes (45_system_ops.md R242 line 7). -/
theorem cfgValueOk_symIdx {v : Word} {s : State} (h : cfgValueOk .synSymIdx v s = true) :
    (s.sys.phase = .run → natOfInt32 v < nSym s) ∧ (s.sys.phase ≠ .run → v = 0#32) := by
  simp only [cfgValueOk, Bool.and_eq_true, decide_eq_true_eq] at h
  obtain ⟨hnonneg, hrange⟩ := h
  constructor
  · intro hp
    rw [if_pos hp, decide_eq_true_eq] at hrange
    unfold natOfInt32
    omega
  · intro hp
    rw [if_neg hp] at hrange
    exact eq_of_beq hrange

theorem cfgWrite_shape_run {s : State} (h : BlockShape s) {r : CfgReg} {v : Word}
    (hw : cfgWritable r s.sys.phase = true) (hv : cfgValueOk r v s = true) : BlockShape (cfgWrite r v s) := by
  rw [h.phase] at hw
  rcases cfgWritable_run hw with rfl | rfl
  · exact ⟨h.phase, h.config, h.gar, h.cfrGains, h.frm, h.symIdx⟩
  · exact ⟨h.phase, h.config, h.gar, h.cfrGains, h.frm, (cfgValueOk_symIdx hv).1 h.phase⟩

theorem cfgWrite_shape_idle {s : State} (h : Shaped s) (hp : s.sys.phase ≠ .run) {r : CfgReg} {v : Word}
    (hv : cfgValueOk r v s = true) : Shaped (cfgWrite r v s) := by
  obtain ⟨hfar, hgar, hcfr, hfrm, hphase⟩ := cfgWrite_frame r v s
  obtain ⟨hsof, hplsc⟩ := length_cfgWrite_refs r v s
  have hi := h.idle hp
  have hsyn : (cfgWrite r v s).syn = Syn.reset := by
    by_cases hr : r = .synSymIdx
    · subst hr
      rw [(cfgValueOk_symIdx hv).2 hp]
      rfl
    · exact (cfgWrite_syn hr v s).trans hi.syn
  refine ⟨⟨?_, hsof.trans h.fixed.refSof, hplsc.trans h.fixed.refPlsc⟩,
    fun hrun => absurd (hphase.symm.trans hrun) hp, fun _ => ⟨hfar.trans hi.far, ?_, ?_, ?_, hsyn⟩⟩
  · rw [hfrm]
    exact h.fixed.hist
  · rw [hgar, hi.gar]
  · rw [hcfr, hi.cfr]
  · rw [hfrm, hi.frm]

theorem writeReg_shape {s : State} (h : Shaped s) (a : Nat) (v : Word) : Shaped (writeReg a v s) := by
  unfold writeReg
  split
  · exact h.takeFault nofun
  · rename_i r _
    split
    · rename_i hok
      obtain ⟨hw, hv⟩ := Bool.and_eq_true_iff.1 hok
      refine Shaped.finish ?_ nofun
      by_cases hp : s.sys.phase = .run
      · exact (cfgWrite_shape_run (h.block hp) hw hv).shaped
      · exact cfgWrite_shape_idle h hp hv
    · exact h.takeFault nofun

/-! The operations and the step -/

theorem foldl_garStep_shape (xs : List C) {s : State} (h : BlockShape s) :
    BlockShape (xs.foldl (fun t x => (garStep t x).state) s) :=
  List.foldlRecOn (motive := BlockShape) xs _ h fun _ hu x _ => garStep_shape hu x

theorem foldl_synSample_shape (xs : List C) {s : State} (h : BlockShape s) : BlockShape (xs.foldl synSample s) :=
  List.foldlRecOn (motive := BlockShape) xs _ h fun _ hu x _ => synSample_shape hu x

/-- `SYS.BUILD` either constructs the block or fails before it is constructed. -/
theorem execSysBuild_shape {s t : State} (h : Shaped s) (he : execSysBuild s = .next t) : Shaped t := by
  refine runOp_keeps (P := Shaped) (h.takeFault nofun) (fun hp _ => ?_) he
  have hconfig : s.sys.phase = .config := eq_of_beq hp
  split
  · exact (built_shape h.fixed ‹_›).finish nofun
  · exact h.takeFault fun _ => by rw [hconfig]; exact nofun

theorem execCfgRd_shape {s t : State} (h : Shaped s) {a : Nat} (he : execCfgRd a s = .next t) : Shaped t := by
  refine runOp_keeps (P := Shaped) (h.takeFault nofun) (fun _ _ => ?_) he
  split
  · exact h.takeFault nofun
  · exact h.of_units_eq rfl rfl rfl rfl rfl rfl

theorem execCfgWr_shape {s t : State} (h : Shaped s) {a : Nat} (he : execCfgWr a s = .next t) : Shaped t := by
  refine runOp_keeps (P := Shaped) (h.takeFault nofun) (fun _ _ => ?_) he
  have hpop : Shaped (popWord s).2 := h.of_units_eq rfl rfl rfl rfl rfl rfl
  exact writeReg_shape hpop a _

/-- The rule of an operation that only phase RUN permits runs on a constructed block only. -/
theorem runOp_shape {i : Instr} {body : State → State} {s t : State} (h : Shaped s)
    (hrun : ∀ p, permittedIn i p = (p == .run)) (he : runOp i body s = .next t)
    (hbody : BlockShape s → dinWords s i ≤ s.din.length → Shaped (body s)) : Shaped t :=
  runOp_keeps (P := Shaped) (h.takeFault nofun)
    (fun hp => hbody (h.block (eq_of_beq ((hrun _).symm.trans hp)))) he

theorem exec_shape {i : Instr} {s t : State} (h : Shaped s) (he : exec i s = .next t) : Shaped t := by
  cases i <;> dsimp only [exec] at he
  case sysBuild => exact execSysBuild_shape h he
  case cfgWr a => exact execCfgWr_shape h he
  case cfgRd a => exact execCfgRd_shape h he
  all_goals
    refine runOp_shape h (fun _ => rfl) he fun hb hd => ?_
    obtain ⟨-, hsym, -⟩ := sizes_of_validConfig hb.config
  case sysReset => exact (sysReset_shape hb).finish nofun
  case farStep | farSetmu | farReset =>
    refine BlockShape.finish ?_ nofun
    exact hb
  case garStep =>
    refine BlockShape.finish ?_ nofun
    exact garStep_shape (s := (popC s).2) hb _
  case garSync =>
    refine BlockShape.finish ?_ nofun
    exact foldl_garStep_shape _ hb
  case garExtract =>
    refine BlockShape.finish ?_ (drainStatus_ne_configError _ _)
    exact ⟨hb.phase, hb.config, garDrain_shape hb.gar _, hb.cfrGains, hb.frm, hb.symIdx⟩
  case garReset =>
    refine BlockShape.finish ?_ nofun
    exact ⟨hb.phase, hb.config, garCleared_shape _ _ hb.gar.gains, hb.cfrGains, hb.frm, hb.symIdx⟩
  case cfrStep | cfrReset =>
    refine BlockShape.finish ?_ nofun
    exact ⟨hb.phase, hb.config, hb.gar, hb.cfrGains, hb.frm, hb.symIdx⟩
  case cfrSync =>
    refine BlockShape.finish ?_ nofun
    exact ⟨hb.phase, hb.config, hb.gar, cfrRotateBlock_gains _ hb.cfrGains, hb.frm, hb.symIdx⟩
  case cfrUpd =>
    refine BlockShape.finish ?_ nofun
    exact ⟨hb.phase, hb.config, hb.gar, cfrUpdate_gains _ hb.cfrGains, hb.frm, hb.symIdx⟩
  case frmSync =>
    refine BlockShape.finish ?_ nofun
    exact ⟨hb.phase, hb.config, hb.gar, hb.cfrGains, frmAfter_shape hsym hb.frm (length_samplesOf _ _ hd),
      hb.symIdx⟩
  case frmReset =>
    refine BlockShape.finish ?_ nofun
    exact ⟨hb.phase, hb.config, hb.gar, hb.cfrGains, frmCleared_shape hsym hb.frm.refSof hb.frm.refPlsc,
      hb.symIdx⟩
  case synSync =>
    have hblock := foldl_synSample_shape (popBlock (nSmp s) s).1 (s := (popBlock (nSmp s) s).2) hb
    refine BlockShape.finish ?_ (drainStatus_ne_configError _ _)
    exact ⟨hblock.phase, hblock.config, garDrain_shape hblock.gar _, hblock.cfrGains, hblock.frm, hblock.symIdx⟩
  case synReset =>
    refine BlockShape.finish ?_ nofun
    exact ⟨hb.phase, hb.config, garCleared_shape _ _ hb.gar.gains, hb.cfrGains, hb.frm, hsym⟩

theorem hardwareReset_shape (s : State) : Shaped (hardwareReset s) :=
  ⟨⟨List.length_replicate, List.length_replicate, List.length_replicate⟩, nofun, fun _ => ⟨rfl, rfl, rfl, rfl, rfl⟩⟩

end Sys2Proof.Machine

open Sys2Proof.Machine in
/-- Settles O17: in phase RUN unit by unit, outside it because no operation reaches the datapath. -/
theorem stepKeepsShape : Obligations.StepKeepsShape := fun s _ h hstep =>
  step_keeps (hardwareReset_shape s) (fun _ => h.of_units_eq rfl rfl rfl rfl rfl rfl)
    (fun _ hu => hu.takeFault nofun) (fun _ _ hu he => exec_shape hu he) hstep
end

/-! PROOFS. What an operation pops from `DIN`, and what it leaves of the registers that `SYS.BUILD` freezes
(20_memory.md R66, R77). -/
section
namespace Sys2Proof.Machine

/-- What every sample of a block leaves, the block leaves. -/
theorem foldl_leaves {α : Type} (f : State → α) {g : State → C → State} (hg : ∀ u x, f (g u x) = f u)
    (xs : List C) (s : State) : f (xs.foldl g s) = f s :=
  List.foldlRecOn (motive := fun u => f u = f s) xs g rfl fun u hu x _ => (hg u x).trans hu

/-! The words on `DIN` -/

theorem garStep_din (s : State) (x : C) : (garStep s x).state.din = s.din := rfl

/-- A sample of `SYN.SYNC` pops nothing: its block has been popped before. -/
theorem synSample_din (s : State) (x : C) : (synSample s x).din = s.din :=
  synSample_keeps (P := fun u => u.din = s.din) (fun _ _ hu => hu) (fun _ _ hu => hu) (fun _ _ hu => hu) rfl x

theorem cfgWrite_din (r : CfgReg) (v : Word) (s : State) : (cfgWrite r v s).din = s.din := by
  cases r <;> rfl

/-- The checks and the write of `CFG.WR` pop nothing more, refused or not. -/
theorem writeReg_din (a : Nat) (v : Word) (s : State) : (writeReg a v s).din = s.din := by
  unfold writeReg
  split
  · rfl
  · split
    · rw [finish_din, cfgWrite_din]
    · rfl

/-- Every operation is a rule run by `runOp`, and the rule pops exactly the words `runOp` has waited for. -/
theorem exec_runs_popping_rule (i : Instr) (s : State) :
    ∃ body, exec i s = runOp i body s ∧ (body s).din = s.din.drop (dinWords s i) := by
  cases i <;> dsimp only [exec] <;> refine ⟨_, rfl, ?_⟩
  case sysBuild => split <;> rfl
  case cfgWr a => exact (writeReg_din a _ _).trans List.drop_one.symm
  case cfgRd a => split <;> rfl
  case farSetmu => exact List.drop_one.symm
  case garSync =>
    rw [finish_din]
    exact foldl_leaves State.din garStep_din _ (popBlock (nSmp s) s).2
  case garExtract =>
    rw [finish_din]
    rfl
  case synSync =>
    rw [finish_din]
    exact foldl_leaves State.din synSample_din _ (popBlock (nSmp s) s).2
  all_goals rfl

/-! The registers that `SYS.BUILD` freezes -/

/-- The registers and the references that `SYS.BUILD` freezes. -/
def frozenRegs (s : State) : List Word × List C × List C := (frozen s, s.frm.refSof, s.frm.refPlsc)

/-- The frozen registers of GAR and CFR are the gains of the two loops. -/
theorem frozenRegs_eq_of_gains {s u : State} (hgar : u.gar.kp = s.gar.kp ∧ u.gar.ki = s.gar.ki)
    (hcfr : u.cfr.kp = s.cfr.kp ∧ u.cfr.ki = s.cfr.ki) (hsys : u.sys = s.sys) (hfrm : u.frm = s.frm) :
    frozenRegs u = frozenRegs s := by
  simp only [frozenRegs, frozen, hgar, hcfr, hsys, hfrm]

theorem takeFault_frozenRegs (st : Status) (s : State) : frozenRegs (takeFault st s) = frozenRegs s := rfl

theorem finish_frozenRegs (st : Status) (s : State) : frozenRegs (finish st s) = frozenRegs s := by
  unfold finish
  split <;> rfl

theorem garStep_frozenRegs (s : State) (x : C) : frozenRegs (garStep s x).state = frozenRegs s := by
  obtain ⟨hkp, hki, -⟩ := garAfter_keeps s (farDot (farShift x s.far))
  exact frozenRegs_eq_of_gains ⟨hkp, hki⟩ ⟨rfl, rfl⟩ rfl rfl

theorem cfrUpdate_frozenRegs (s : State) (p : C) :
    frozenRegs { s with cfr := cfrUpdate p s.cfr } = frozenRegs s := by
  obtain ⟨-, -, hkp, hki⟩ := cfrUpdate_keeps p s.cfr
  exact frozenRegs_eq_of_gains ⟨rfl, rfl⟩ ⟨hkp, hki⟩ rfl rfl

theorem synStrobe_frozenRegs (y : C) (s : State) : frozenRegs (synStrobe y s) = frozenRegs s := by
  unfold synStrobe
  split
  · exact cfrUpdate_frozenRegs s y
  · rfl

theorem synSample_frozenRegs (s : State) (x : C) : frozenRegs (synSample s x) = frozenRegs s :=
  synSample_keeps (P := fun u => frozenRegs u = frozenRegs s) (fun _ _ hu => hu)
    (fun u z hu => (garStep_frozenRegs u z).trans hu) (fun u y hu => (synStrobe_frozenRegs y u).trans hu) rfl x

/-- In phase RUN the only writable registers are the coarse-loop gate and the frame index, which are not frozen. -/
theorem writeReg_frozenRegs {s : State} (hp : s.sys.phase = .run) (a : Nat) (v : Word) :
    frozenRegs (writeReg a v s) = frozenRegs s := by
  unfold writeReg
  split
  · rfl
  · split
    · rename_i r _ hok
      obtain ⟨hw, -⟩ := Bool.and_eq_true_iff.1 hok
      rw [hp] at hw
      rcases cfgWritable_run hw with rfl | rfl <;> rfl
    · rfl

theorem exec_frozenRegs {i : Instr} {s t : State} (hp : s.sys.phase = .run) (he : exec i s = .next t) :
    frozenRegs t = frozenRegs s := by
  have keeps : ∀ {body : State → State}, runOp i body s = .next t →
      (permittedIn i s.sys.phase = true → frozenRegs (body s) = frozenRegs s) → frozenRegs t = frozenRegs s :=
    fun hrun hbody => runOp_keeps (P := fun u => frozenRegs u = frozenRegs s) (takeFault_frozenRegs _ s)
      (fun hperm _ => hbody hperm) hrun
  cases i <;> dsimp only [exec] at he <;> refine keeps he fun hperm => ?_
  case sysBuild =>
    rw [hp] at hperm
    cases hperm
  case cfgWr a => exact writeReg_frozenRegs (s := (popWord s).2) hp a _
  case cfgRd a => split <;> rfl
  case garStep =>
    rw [finish_frozenRegs]
    exact garStep_frozenRegs (popC s).2 _
  case garSync =>
    rw [finish_frozenRegs]
    exact foldl_leaves frozenRegs garStep_frozenRegs _ (popBlock (nSmp s) s).2
  case garExtract =>
    rw [finish_frozenRegs]
    rfl
  case cfrSync =>
    rw [finish_frozenRegs, cfrRotateBlock_frame]
    rfl
  case cfrUpd =>
    rw [finish_frozenRegs]
    exact cfrUpdate_frozenRegs (popC s).2 _
  case synSync =>
    rw [finish_frozenRegs]
    exact foldl_leaves frozenRegs synSample_frozenRegs (popBlock (nSmp s) s).1 (popBlock (nSmp s) s).2
  all_goals rfl

end Sys2Proof.Machine

open Sys2Proof.Machine in
/-- Settles O9: `runOp` waits for the words that the rule of the operation then pops. -/
theorem operationWaitsForItsWords : Obligations.OperationWaitsForItsWords := by
  intro i s hp
  obtain ⟨body, hexec, hdin⟩ := exec_runs_popping_rule i s
  rw [hexec]
  exact ⟨runOp_waits hp, fun hd => ⟨body s, runOp_runs hp hd, hdin⟩⟩

open Sys2Proof.Machine in
/-- Settles O21: an unimplemented word reaches the fault registers only, and no operation of phase RUN reaches a frozen
register. -/
theorem configurationFrozenInRun : Obligations.ConfigurationFrozenInRun := by
  intro s t hrst hp hstep
  have hkept : frozenRegs t = frozenRegs s := by
    rcases step_cases s with ⟨hr, -⟩ | ⟨-, -, e⟩ | ⟨-, cw, rest, -, ⟨-, -, e⟩ | ⟨i, -, e⟩⟩
    · rw [hrst] at hr
      cases hr
    · rw [e] at hstep
      cases hstep
    · rw [e] at hstep
      cases hstep
      rfl
    · exact exec_frozenRegs (s := { s with cmd := rest }) hp (e ▸ hstep)
  simpa only [frozenRegs, Prod.mk.injEq] using hkept
end

/-! PROOFS. The command words of 30_encoding.md R90 to R95: the fields of an operation's own word, `decode` as the
inverse of `encode`, and the step on a word that is an operation and on one that matches no row. -/
section
namespace Sys2Proof

/-! The columns of R92 -/

/-- The `match` column fills `unit` and `fn` only. -/
theorem opcodeOf_layout (i : Instr) : opcodeOf i < 2 ^ 32 ∧ opcodeOf i % 2 ^ 24 = 0 := by
  cases i <;> dsimp only [opcodeOf] <;> decide

theorem immOf_of_not_usesImm {i : Instr} (h : usesImm i = false) : immOf i = 0 := by
  cases i
  case cfgWr | cfgRd => cases h
  all_goals rfl

theorem wellFormed_iff (i : Instr) : wellFormed i = true ↔ immOf i < 2 ^ 16 := by
  cases i
  case cfgWr | cfgRd => exact decide_eq_true_iff
  all_goals decide

/-- `selectOp` finds every operation at its own unit and function number. -/
theorem selectOp_opcodeOf (i : Instr) :
    selectOp (opcodeOf i / 2 ^ 28) (opcodeOf i / 2 ^ 24 % 2 ^ 4) (immOf i) = .ok i := by
  cases i <;> dsimp only [opcodeOf, immOf] <;> rfl

/-- `selectOp` finds an operation at no other number, and hands it the address field if it has one. -/
theorem selectOp_ok {unit fn imm : Nat} {i : Instr} (h : selectOp unit fn imm = .ok i) :
    opcodeOf i = unit * 2 ^ 28 + fn * 2 ^ 24 ∧ (usesImm i = true → immOf i = imm) := by
  unfold selectOp at h
  split at h
  case h_20 => split at h <;> cases h
  all_goals
    cases h
    exact ⟨rfl, by simp [usesImm, immOf]⟩

/-! The fields of a word -/

theorem toNat_eq_fields (cw : Word) :
    cw.toNat = unitField cw * 2 ^ 28 + fnField cw * 2 ^ 24 + zeroField cw * 2 ^ 16 + immField cw := by
  simp only [unitField, fnField, zeroField, immField]
  omega

theorem toNat_encode {i : Instr} (h : wellFormed i = true) : (encode i).toNat = opcodeOf i + immOf i := by
  have himm := (wellFormed_iff i).1 h
  obtain ⟨hlt, hlow⟩ := opcodeOf_layout i
  rw [encode, BitVec.toNat_ofNat, Nat.mod_eq_of_lt (by omega)]

/-- The address lies below the 24 bits that the `match` column leaves clear, so no field runs into another. -/
theorem fields_encode {i : Instr} (h : wellFormed i = true) :
    unitField (encode i) = opcodeOf i / 2 ^ 28 ∧ fnField (encode i) = opcodeOf i / 2 ^ 24 % 2 ^ 4 ∧
    zeroField (encode i) = 0 ∧ immField (encode i) = immOf i := by
  have himm := (wellFormed_iff i).1 h
  obtain ⟨-, hlow⟩ := opcodeOf_layout i
  simp only [unitField, fnField, zeroField, immField, toNat_encode h]
  omega

/-! Decoding -/

/-- A word is an operation when its unit and function number are, and the fields that must be zero are. -/
theorem decode_eq_ok_iff (cw : Word) (i : Instr) :
    decode cw = .ok i ↔ selectOp (unitField cw) (fnField cw) (immField cw) = .ok i ∧ zeroField cw = 0 ∧
      (usesImm i = false → immField cw = 0) := by
  unfold decode
  cases selectOp (unitField cw) (fnField cw) (immField cw) with
  | error e => simp
  | ok j =>
    constructor
    · intro h
      dsimp only at h
      split_ifs at h with hzero himm
      cases h
      exact ⟨rfl, not_not.1 hzero, fun hu => by_contra fun hne => himm ⟨hu, hne⟩⟩
    · rintro ⟨hsel, hzero, himm⟩
      cases hsel
      dsimp only
      rw [if_neg (not_not.2 hzero), if_neg fun h => h.2 (himm h.1)]

theorem decode_encode {i : Instr} (h : wellFormed i = true) : decode (encode i) = .ok i := by
  obtain ⟨hunit, hfn, hzero, himm⟩ := fields_encode h
  rw [decode_eq_ok_iff, hunit, hfn, himm]
  exact ⟨selectOp_opcodeOf i, hzero, immOf_of_not_usesImm⟩

/-- The address field of a word that decodes is the operation's, used or not. -/
theorem immOf_of_decode {cw : Word} {i : Instr} (h : decode cw = .ok i) : immOf i = immField cw := by
  obtain ⟨hsel, -, himm⟩ := (decode_eq_ok_iff cw i).1 h
  cases hu : usesImm i with
  | true => exact (selectOp_ok hsel).2 hu
  | false => rw [immOf_of_not_usesImm hu, himm hu]

theorem wellFormed_of_decode {cw : Word} {i : Instr} (h : decode cw = .ok i) : wellFormed i = true := by
  rw [wellFormed_iff, immOf_of_decode h]
  exact Nat.mod_lt _ (by decide)

theorem encode_of_decode {cw : Word} {i : Instr} (h : decode cw = .ok i) : encode i = cw := by
  obtain ⟨hsel, hzero, -⟩ := (decode_eq_ok_iff cw i).1 h
  apply BitVec.eq_of_toNat_eq
  rw [toNat_encode (wellFormed_of_decode h), (selectOp_ok hsel).1, immOf_of_decode h, toNat_eq_fields cw, hzero,
    Nat.zero_mul, Nat.add_zero]

end Sys2Proof

namespace Sys2Proof.Laws

/-- The lemmas of the 19 rows, put together. -/
theorem matchesRow : ∀ i : Instr, MatchesRow.Statement i
  | .sysBuild => MatchesRow.sysBuild
  | .sysReset => MatchesRow.sysReset
  | .cfgWr a => MatchesRow.cfgWr a
  | .cfgRd a => MatchesRow.cfgRd a
  | .farStep => MatchesRow.farStep
  | .farSetmu => MatchesRow.farSetmu
  | .farReset => MatchesRow.farReset
  | .garStep => MatchesRow.garStep
  | .garSync => MatchesRow.garSync
  | .garExtract => MatchesRow.garExtract
  | .garReset => MatchesRow.garReset
  | .cfrStep => MatchesRow.cfrStep
  | .cfrSync => MatchesRow.cfrSync
  | .cfrUpd => MatchesRow.cfrUpd
  | .cfrReset => MatchesRow.cfrReset
  | .frmSync => MatchesRow.frmSync
  | .frmReset => MatchesRow.frmReset
  | .synSync => MatchesRow.synSync
  | .synReset => MatchesRow.synReset

/-- A word that decodes matches the row of its operation, because it is the operation's own word. -/
theorem matchesRow_of_decode {cw : Word} {i : Instr} (h : decode cw = .ok i) :
    cw &&& opcodeMask i = BitVec.ofNat 32 (opcodeOf i) := by
  simpa only [encode_of_decode h] using matchesRow i (wellFormed_of_decode h)

end Sys2Proof.Laws

namespace Sys2Proof.Machine

/-- The step when a command word waits and `RST` does not. -/
theorem step_command {s : State} {cw : Word} {rest : List Word} (hrst : s.rst = false) (hcmd : s.cmd = cw :: rest) :
    (∃ e, decode cw = .error e ∧ step s = .next (takeFault .unimplemented { s with cmd := rest })) ∨
    (∃ i, decode cw = .ok i ∧ step s = exec i { s with cmd := rest }) := by
  rcases step_cases s with ⟨hr, -⟩ | ⟨-, hc, -⟩ | ⟨-, cw', rest', hc, hstep⟩
  · rw [hrst] at hr
    cases hr
  · rw [hcmd] at hc
    cases hc
  · rw [hcmd] at hc
    cases hc
    exact hstep

end Sys2Proof.Machine

open Sys2Proof

/-- Settles O1: the fields of the word of an operation are its unit, its function number, zero and its address. -/
theorem decodeOfEncode : Obligations.DecodeOfEncode := fun _ => decode_encode

/-- Settles O2: a word is made of its four fields, and decoding reads or checks every one of them. -/
theorem encodeOfDecode : Obligations.EncodeOfDecode := fun _ _ h => ⟨wellFormed_of_decode h, encode_of_decode h⟩

/-- Settles O5: a word that decoded would match the row of its operation. -/
theorem unmatchedWordIsUnimplemented : Obligations.UnmatchedWordIsUnimplemented := by
  intro s cw rest hrst hcmd hnone
  rcases Machine.step_command hrst hcmd with ⟨-, -, hstep⟩ | ⟨i, hd, -⟩
  · exact hstep
  · exact absurd (Laws.matchesRow_of_decode hd) (hnone i)

/-- Settles O3: closed words, evaluated. -/
theorem wordsOfTheTable : Obligations.WordsOfTheTable := by
  unfold Obligations.WordsOfTheTable
  decide

/-- Settles O4: the word has one decoding only. -/
theorem stepRunsDecodedWord : Obligations.StepRunsDecodedWord := by
  intro s cw rest i hrst hcmd hi _
  rcases Machine.step_command hrst hcmd with ⟨e, he, -⟩ | ⟨j, hj, hstep⟩
  · rw [hi] at he
    cases he
  · rw [hi] at hj
    cases hj
    exact hstep
end

/-! PROOFS. The operations of FAR (40_farrow.md): their complete next states, and the delay of two samples at `mu = 0`,
for which it is shown when binary32 arithmetic is exact. -/
section
namespace Sys2Proof.Machine

/-! Operands taken from `DIN` -/

theorem popWord_of_din {s : State} {w : Word} {rest : List Word} (hd : s.din = w :: rest) :
    popWord s = (w, { s with din := rest }) := by
  simp [popWord, hd]

theorem popC_of_din {s : State} {re im : Word} {rest : List Word} (hd : s.din = re :: im :: rest) :
    popC s = ({ re := re, im := im }, { s with din := rest }) := by
  simp [popC, hd]

/-! Where arithmetic is exact: an exact result that some finite pattern has is not rounded. -/

/-- The pattern is finite and stands for the number `q`. -/
def HasValue (x : Real32) (q : ℚ) : Prop := isFinite x = true ∧ valueOf x = q

theorem hasValue_of_finite {x : Real32} (h : isFinite x = true) : HasValue x (valueOf x) := ⟨h, rfl⟩

theorem hasValue_of_units {x y : Real32} {q : ℚ} (hx : HasValue x q) (hf : isFinite y = true)
    (hu : units y = units x) : HasValue y q := by
  refine ⟨hf, ?_⟩
  rw [← hx.2, valueOf, valueOf, hu]

theorem units_cast {x : Real32} {q : ℚ} (h : HasValue x q) : (units x : ℚ) = q * 2 ^ 149 := by
  rw [← h.2, valueOf, div_mul_cancel₀]
  positivity

/-- The magnitude of a finite value is a significand of 24 bits times a power of two. -/
theorem magUnits_split {x : Real32} (h : isFinite x = true) :
    ∃ m j, magUnits x = m * 2 ^ j ∧ m < 2 ^ 24 ∧ j ≤ 253 := by
  obtain ⟨k, m, hb, hm, hk⟩ := magBits_split (magBits x)
  refine ⟨m, k, ?_, hm, ?_⟩
  · rw [magUnits_eq_magValue, hb, magValue_add hm.le hk]
  · have hfin : magBits x < infBits := of_decide_eq_true h
    have hinf : infBits = 253 * 2 ^ 23 + 2 ^ 24 := rfl
    omega

/-- The rounding of a ratio depends on the ratio only. -/
theorem roundRatio_mul_right (neg : Bool) (num den : Nat) {c : Nat} (hc : 0 < c) :
    roundRatio neg (num * c) (den * c) = roundRatio neg num den := by
  have hscale : den * c * 2 ^ ulpExp (num / den) = den * 2 ^ ulpExp (num / den) * c := Nat.mul_right_comm _ _ _
  have hlt (x y : Nat) : x * c < 2 * (y * c) ↔ x < 2 * y := by
    rw [← Nat.mul_assoc, Nat.mul_lt_mul_right hc]
  have heq (x y : Nat) : 2 * (y * c) = x * c ↔ 2 * y = x := by
    rw [← Nat.mul_assoc, Nat.mul_left_inj hc.ne']
  simp only [roundRatio, Nat.mul_div_mul_right _ _ hc, hscale, Nat.mul_mod_mul_right, hlt, heq]

/-- A sum that a finite pattern has is the sum of `+R`. -/
theorem hasValue_rAdd {a b x : Real32} {p q : ℚ} (ha : HasValue a p) (hb : HasValue b q) (hx : HasValue x (p + q)) :
    HasValue (rAdd a b) (p + q) := by
  obtain ⟨hna, hia⟩ := not_nan_inf_of_finite ha.1
  obtain ⟨hnb, hib⟩ := not_nan_inf_of_finite hb.1
  have hsum : units a + units b = units x := by
    have h : (units a : ℚ) + units b = units x := by rw [units_cast ha, units_cast hb, units_cast hx, add_mul]
    exact_mod_cast h
  have hround : rAdd a b = if units x = 0 then (if signBit a ∧ signBit b then rNegZero else rZero)
      else roundRatio (decide (units x < 0)) (units x).natAbs 1 := by
    simp [rAdd, addAs, hna, hia, hnb, hib, hsum]
  rw [hround]
  split
  case isTrue h0 =>
    split <;> exact hasValue_of_units hx (by decide) (Eq.trans (by decide) h0.symm)
  case isFalse =>
    obtain ⟨m, j, hmag, hm, hj⟩ := magUnits_split hx.1
    obtain ⟨hf, hu⟩ := units_roundRatio_exact ((natAbs_units x).trans hmag) hm hj
    exact hasValue_of_units hx hf hu

theorem units_eq_sign_mul (x : Real32) : units x = (if signBit x then -1 else 1) * magUnits x := by
  unfold units
  split <;> ring

theorem units_mul_units (a b : Real32) :
    units a * units b = (if signBit a != signBit b then -1 else 1) * ((magUnits a * magUnits b : Nat) : Int) := by
  rw [units_eq_sign_mul a, units_eq_sign_mul b, Nat.cast_mul]
  cases signBit a <;> cases signBit b <;> simp

/-- A product that a finite pattern has is the product of `×R`. -/
theorem hasValue_rMul {a b x : Real32} {p q : ℚ} (ha : HasValue a p) (hb : HasValue b q) (hx : HasValue x (p * q)) :
    HasValue (rMul a b) (p * q) := by
  obtain ⟨hna, hia⟩ := not_nan_inf_of_finite ha.1
  obtain ⟨hnb, hib⟩ := not_nan_inf_of_finite hb.1
  have hprod : units a * units b = units x * 2 ^ 149 := by
    have h : (units a : ℚ) * units b = units x * 2 ^ 149 := by
      rw [units_cast ha, units_cast hb, units_cast hx]
      ring
    exact_mod_cast h
  have hmag : magUnits a * magUnits b = magUnits x * 2 ^ 149 := by
    have h := congrArg Int.natAbs hprod
    rw [Int.natAbs_mul, Int.natAbs_mul, natAbs_units, natAbs_units, natAbs_units] at h
    exact h
  have hround : rMul a b = roundRatio (signBit a != signBit b) (magUnits x) 1 := by
    have hscale := roundRatio_mul_right (signBit a != signBit b) (magUnits x) 1 (Nat.two_pow_pos 149)
    rw [Nat.one_mul] at hscale
    simp [rMul, hna, hia, hnb, hib, hmag, ← hscale]
  obtain ⟨m, j, hsplit, hm, hj⟩ := magUnits_split hx.1
  obtain ⟨hf, hu⟩ := roundRatio_exact (signBit a != signBit b) hm hj
  rw [← hsplit] at hf hu
  rw [hround]
  refine hasValue_of_units hx hf ?_
  have hunits := units_mul_units a b
  rw [hprod, hmag] at hunits
  rw [units_eq_sign_mul, signBit_roundRatio, hu]
  push_cast at hunits
  linarith

/-! The neutral elements -/

theorem hasValue_zero : HasValue rZero 0 := by
  have hunits : units rZero = 0 := by decide
  exact ⟨by decide, by rw [valueOf, hunits, Int.cast_zero, zero_div]⟩

theorem hasValue_one : HasValue rOne 1 := by
  have hunits : units rOne = 2 ^ 149 := by decide
  exact ⟨by decide, by rw [valueOf, hunits]; norm_num⟩

theorem hasValue_zero_rMul {x : Real32} {q : ℚ} (h : HasValue x q) : HasValue (rMul rZero x) 0 := by
  have hzero : HasValue rZero (0 * q) := by rw [zero_mul]; exact hasValue_zero
  simpa using hasValue_rMul hasValue_zero h hzero

theorem hasValue_one_rMul {x : Real32} {q : ℚ} (h : HasValue x q) : HasValue (rMul rOne x) q := by
  simpa using hasValue_rMul hasValue_one h (by rwa [one_mul])

theorem hasValue_zero_rAdd {a b : Real32} {q : ℚ} (ha : HasValue a 0) (hb : HasValue b q) : HasValue (rAdd a b) q := by
  simpa using hasValue_rAdd ha hb (by rwa [zero_add])

theorem hasValue_rAdd_zero {a b : Real32} {q : ℚ} (ha : HasValue a q) (hb : HasValue b 0) : HasValue (rAdd a b) q := by
  simpa using hasValue_rAdd ha hb (by rwa [add_zero])

/-- The dot product of 40_farrow.md R115 with the coefficients of `mu = 0`, in one part of the samples: all terms but
that of the second sample are zeros, and adding a zero is exact. -/
theorem hasValue_farDot_zero {h0 h1 h2 h3 : Real32} (f0 : isFinite h0 = true) (f1 : isFinite h1 = true)
    (f2 : isFinite h2 = true) (f3 : isFinite h3 = true) :
    HasValue (rAdd (rAdd (rAdd (rMul rZero h0) (rMul rOne h1)) (rMul rZero h2)) (rMul rZero h3)) (valueOf h1) := by
  have hsecond := hasValue_one_rMul (hasValue_of_finite f1)
  have hzero {x : Real32} (hx : isFinite x = true) := hasValue_zero_rMul (hasValue_of_finite hx)
  exact hasValue_rAdd_zero (hasValue_rAdd_zero (hasValue_zero_rAdd (hzero f0) hsecond) (hzero f2)) (hzero f3)

end Sys2Proof.Machine

open Sys2Proof Sys2Proof.Machine

/-- Settles O22: the operation runs, and the word it pops is the first on `DIN`. -/
theorem farSetmuResult : Obligations.FarSetmuResult := by
  intro s mu rest hp hd
  change execFarSetmu s = _
  rw [execFarSetmu, runOp_runs (by rw [hp]; rfl) (by simp [dinWords, hd]), popWord_of_din hd]
  rfl

/-- Settles O23: the operation runs, and the sample it pops is the first on `DIN`. -/
theorem farStepResult : Obligations.FarStepResult := by
  intro s re im rest hp hd
  change execFarStep s = _
  rw [execFarStep, runOp_runs (by rw [hp]; rfl) (by simp [dinWords, hd]), popC_of_din hd]
  rfl

/-- Settles O25: the operation runs and takes nothing from `DIN`. -/
theorem farResetResult : Obligations.FarResetResult := by
  intro s hp
  change execFarReset s = _
  rw [execFarReset, runOp_runs (by rw [hp]; rfl) (Nat.zero_le _)]
  rfl

/-- Settles O24: the output of `farStepResult`, each part of it by `hasValue_farDot_zero`. -/
theorem farPureDelay : Obligations.FarPureDelay := by
  intro s re im rest hp hd hb hfin
  have hstep := farStepResult s re im rest hp hd
  rw [hb] at hstep
  simp only [List.forall_mem_cons, List.not_mem_nil, false_imp_iff, implies_true, and_true] at hfin
  obtain ⟨⟨hre0, him0⟩, ⟨hre1, him1⟩, ⟨hre2, him2⟩, hre3, him3⟩ := hfin
  obtain ⟨href, hrev⟩ := hasValue_farDot_zero hre0 hre1 hre2 hre3
  obtain ⟨himf, himv⟩ := hasValue_farDot_zero him0 him1 him2 him3
  exact ⟨_, { re := _, im := _ }, hstep, rfl, href, himf, hrev, himv⟩
end

/-! PROOFS. The operations of GAR (41_gardner.md): a Gardner step element by element, a block as its steps, the drain,
the quotient `mu` where a strobe is declared, and the two counters over every step. -/
section
namespace Sys2Proof.Machine

/-! The strobe history and the detector -/

/-- The flag takes the bit that the shift has cleared. -/
theorem strobeHistory_eq (width : Nat) (b : Bool) (sh : Nat) :
    strobeHistory width b sh = 2 * sh % 2 ^ width + (if b then 1 else 0) := by
  rw [strobeHistory, Nat.shiftLeft_eq, pow_one, Nat.mul_comm sh 2]
  cases b with
  | false => simp
  | true =>
    cases width with
    | zero => simp [Nat.mod_one]
    | succ w =>
      rw [pow_succ', Nat.mul_mod_mul_left]
      exact (Nat.two_pow_add_eq_or_of_lt (i := 1) Nat.one_lt_two _).symm

section detector
variable {width : Nat} {b : Bool} {g : Gar} (y : C)

theorem tedUpdate_ted_of_popcount_zero (h : popcount width (strobeHistory width b g.sh) = 0) :
    (tedUpdate width y b g).ted = g.ted := by
  simp only [tedUpdate, h]

theorem tedUpdate_ted_of_popcount_one (h : popcount width (strobeHistory width b g.sh) = 1) :
    (tedUpdate width y b g).ted = shiftInFront g.ted y := by
  simp only [tedUpdate, h]

theorem tedUpdate_ted_of_two_le_popcount (h : 2 ≤ popcount width (strobeHistory width b g.sh)) :
    (tedUpdate width y b g).ted = shiftInFront (shiftInFront g.ted C0) y := by
  obtain ⟨k, hk⟩ := Nat.exists_eq_add_of_le' h
  simp only [tedUpdate, hk]

end detector

/-! GAR and FAR after a Gardner step -/

section afterStep
variable (s : State) (y : C)

theorem garAfter_sh :
    (garAfter s y).sh = 2 * s.gar.sh % 2 ^ osf s + (if s.gar.isStrobe then 1 else 0) := by
  rw [garAfter_eq, garPushed_frame]
  exact strobeHistory_eq _ _ _

theorem garAfter_tedErr :
    (garAfter s y).tedErr =
      if (garAfter s y).sh = 1 then
        tedError (s.gar.ted.getD (osf s - 1) C0) (s.gar.ted.getD (osf s - osf s / 2 - 1) C0) y
      else rZero := by
  rw [garAfter_eq, garPushed_frame]
  rfl

theorem garAfter_ted :
    (popcount (osf s) (garAfter s y).sh = 0 → (garAfter s y).ted = s.gar.ted) ∧
    (popcount (osf s) (garAfter s y).sh = 1 → (garAfter s y).ted = shiftInFront s.gar.ted y) ∧
    (2 ≤ popcount (osf s) (garAfter s y).sh →
      (garAfter s y).ted = shiftInFront (shiftInFront s.gar.ted C0) y) := by
  rw [garAfter_eq, garPushed_frame]
  exact ⟨tedUpdate_ted_of_popcount_zero y, tedUpdate_ted_of_popcount_one y, tedUpdate_ted_of_two_le_popcount y⟩

theorem garAfter_filter :
    (garAfter s y).lfState = rAdd s.gar.lfState (rMul s.gar.ki (garAfter s y).tedErr) ∧
    (garAfter s y).lfOut = rAdd (rMul s.gar.kp (garAfter s y).tedErr) (garAfter s y).lfState := by
  rw [garAfter_eq, garPushed_frame]
  exact ⟨rfl, rfl⟩

/-- `w` of 41_gardner.md R138 line 1, from the loop filter's new output. -/
def ncoStep (s : State) (y : C) : Real32 := rAdd (garAfter s y).lfOut (invOsf s)

theorem garAfter_control :
    (garAfter s y).isStrobe = rLt s.gar.nco (ncoStep s y) ∧
    (garAfter s y).mu = (if rLt s.gar.nco (ncoStep s y) then rDiv s.gar.nco (ncoStep s y) else s.gar.mu) ∧
    (garAfter s y).nco = rFrac (rSub s.gar.nco (ncoStep s y)) := by
  rw [ncoStep, garAfter_eq, garPushed_frame]
  exact ⟨rfl, rfl, rfl⟩

/-- The ring and the overflow counter stand as the push has left them. -/
theorem garAfter_ring :
    (garAfter s y).oring = (garPushed s y).oring ∧ (garAfter s y).ovfCnt = (garPushed s y).ovfCnt :=
  ⟨rfl, rfl⟩

theorem garPushed_of_not_strobe (h : s.gar.isStrobe = false) : garPushed s y = { s.gar with lastSym := y } := by
  simp [garPushed, h]

theorem garPushed_of_strobe (h : s.gar.isStrobe = true) :
    garPushed s y = oringPush (oringCap s) y { s.gar with lastSym := y } := by
  simp [garPushed, h]

theorem garAfter_ring_of_not_strobe (h : s.gar.isStrobe = false) :
    (garAfter s y).oring = s.gar.oring ∧ (garAfter s y).ovfCnt = s.gar.ovfCnt := by
  obtain ⟨hring, hovf⟩ := garAfter_ring s y
  rw [hring, hovf, garPushed_of_not_strobe s y h]
  exact ⟨rfl, rfl⟩

theorem garAfter_ring_of_full (h : s.gar.isStrobe = true) (hfull : s.gar.oring.length = oringCap s) :
    (garAfter s y).oring = s.gar.oring.tail ++ [y] ∧ (garAfter s y).ovfCnt = s.gar.ovfCnt + 1 := by
  obtain ⟨hring, hovf⟩ := garAfter_ring s y
  rw [hring, hovf, garPushed_of_strobe s y h]
  rcases oringPush_cases (oringCap s) y { s.gar with lastSym := y } with ⟨-, hpush⟩ | ⟨hroom, -⟩
  · exact hpush
  · exact absurd hfull hroom

theorem garAfter_ring_of_room (h : s.gar.isStrobe = true) (hroom : s.gar.oring.length ≠ oringCap s) :
    (garAfter s y).oring = s.gar.oring ++ [y] ∧ (garAfter s y).ovfCnt = s.gar.ovfCnt := by
  obtain ⟨hring, hovf⟩ := garAfter_ring s y
  rw [hring, hovf, garPushed_of_strobe s y h]
  rcases oringPush_cases (oringCap s) y { s.gar with lastSym := y } with ⟨hfull, -⟩ | ⟨-, hpush⟩
  · exact absurd hfull hroom
  · exact hpush

theorem garAfter_ovfCnt_le : s.gar.ovfCnt ≤ (garAfter s y).ovfCnt := by
  cases h : s.gar.isStrobe with
  | false => exact (garAfter_ring_of_not_strobe s y h).2.ge
  | true =>
    by_cases hfull : s.gar.oring.length = oringCap s
    · have hpush := garAfter_ring_of_full s y h hfull
      omega
    · exact (garAfter_ring_of_room s y h hfull).2.ge

end afterStep

/-- FAR after a Gardner step: the window moved by one, and new coefficients where a strobe is declared for the next
sample (41_gardner.md R138 line 5). -/
theorem garStep_far (s : State) (x : C) :
    (garStep s x).state.far.h = (farShift x s.far).h ∧
    (garStep s x).state.far.mu =
      (if (garStep s x).state.gar.isStrobe then (garStep s x).state.gar.mu else s.far.mu) ∧
    (garStep s x).state.far.b =
      (if (garStep s x).state.gar.isStrobe then farrowCoef (garStep s x).state.gar.mu else s.far.b) := by
  have hfar : (garStep s x).state.far =
      if (garStep s x).state.gar.isStrobe then farSetMu (garStep s x).state.gar.mu (farShift x s.far)
      else farShift x s.far := rfl
  rw [hfar]
  split <;> exact ⟨rfl, rfl, rfl⟩

theorem exec_garStep {s : State} {x : C} {rest : List Word} (hp : s.sys.phase = .run)
    (hd : s.din = x.re :: x.im :: rest) :
    exec .garStep s = .next { (garStep s x).state with
      din := rest
      dout := s.dout ++ [(garStep s x).y.re, (garStep s x).y.im, boolWord s.gar.isStrobe]
      stat := s.stat ++ [.ok] } := by
  change execGarStep s = _
  rw [execGarStep, runOp_runs (by rw [hp]; rfl) (by simp [dinWords, hd]), popC_of_din hd]
  rfl

/-! A block of Gardner steps -/

/-- No Gardner step of a block reads a port. -/
theorem foldl_garStep_ports (xs : List C) (s : State) (i o : List Word) (c : List Status) :
    xs.foldl (fun t x => (garStep t x).state) { s with din := i, dout := o, stat := c } =
      { xs.foldl (fun t x => (garStep t x).state) s with din := i, dout := o, stat := c } := by
  induction xs generalizing s with
  | nil => rfl
  | cons x xs ih => exact ih (garStep s x).state

/-- `n` steps in a row take the samples of the block one by one; what they push is left open. -/
theorem execMany_garStep (n : Nat) {s : State} (hp : s.sys.phase = .run) (hd : 2 * n ≤ s.din.length) :
    ∃ o c, execMany .garStep n s = .next { (samplesOf n s.din).foldl (fun t x => (garStep t x).state) s with
      din := s.din.drop (2 * n), dout := o, stat := c } := by
  induction n generalizing s with
  | zero => exact ⟨s.dout, s.stat, rfl⟩
  | succ n ih =>
    match hdin : s.din with
    | [] | [_] =>
      simp only [hdin, List.length_nil, List.length_singleton] at hd
      omega
    | re :: im :: rest =>
      have hlen : 2 * n ≤ rest.length := by
        simp only [hdin, List.length_cons] at hd
        omega
      have hstep := exec_garStep (x := ⟨re, im⟩) hp hdin
      generalize hdout : s.dout ++ _ = d at hstep
      obtain ⟨o, c, hmany⟩ :=
        ih (s := { (garStep s ⟨re, im⟩).state with din := rest, dout := d, stat := s.stat ++ [.ok] }) hp hlen
      refine ⟨o, c, ?_⟩
      rw [execMany, hstep]
      dsimp only
      rw [hmany, foldl_garStep_ports]
      rfl

theorem exec_garSync {s : State} (hp : s.sys.phase = .run) (hd : 2 * nSmp s ≤ s.din.length) :
    exec .garSync s = .next { (samplesOf (nSmp s) s.din).foldl (fun t x => (garStep t x).state) s with
      din := s.din.drop (2 * nSmp s), dout := s.dout, stat := s.stat ++ [.ok] } := by
  have hports := foldl_garStep_ports (samplesOf (nSmp s) s.din) s (s.din.drop (2 * nSmp s)) s.dout s.stat
  change execGarSync s = _
  rw [execGarSync, runOp_runs (by rw [hp]; rfl) (show dinWords s .garSync ≤ _ from hd)]
  exact congrArg (fun t => (.next (finish .ok t) : Result)) hports

/-! The drain -/

section drain
variable {n : Nat}

theorem underflowed_eq_false {ring : List C} (h : n ≤ ring.length) : underflowed n ring = false :=
  decide_eq_false (Nat.not_lt.2 h)

theorem underflowed_eq_true {ring : List C} (h : ring.length < n) : underflowed n ring = true := decide_eq_true h

theorem garDrain_of_le {g : Gar} (h : n ≤ g.oring.length) : garDrain n g = { g with oring := g.oring.drop n } := by
  simp [garDrain, underflowed_eq_false h]

theorem garDrain_of_lt {g : Gar} (h : g.oring.length < n) :
    garDrain n g = { g with oring := [], udfCnt := g.udfCnt + 1 } := by
  simp [garDrain, underflowed_eq_true h, h.le]

theorem drainStatus_of_le {g : Gar} (h : n ≤ g.oring.length) : drainStatus n g = .ok := by
  simp [drainStatus, underflowed_eq_false h]

theorem drainStatus_of_lt {g : Gar} (h : g.oring.length < n) : drainStatus n g = .processingAborted := by
  simp [drainStatus, underflowed_eq_true h]

theorem wordsOf_replicate_zero (k : Nat) : wordsOf (List.replicate k C0) = List.replicate (2 * k) 0#32 := by
  induction k with
  | zero => rfl
  | succ k ih => rw [List.replicate_succ, wordsOf_cons, ih]; rfl

theorem wordsOf_drained_of_lt {ring : List C} (h : ring.length < n) :
    wordsOf (drained n ring) = wordsOf ring ++ List.replicate (2 * (n - ring.length)) 0#32 := by
  rw [drained, List.take_of_length_le h.le, wordsOf_append, wordsOf_replicate_zero]

end drain

theorem exec_garExtract {s : State} (hp : s.sys.phase = .run) :
    exec .garExtract s = .next (finish (drainStatus (nSym s) s.gar)
      { s with
        gar := garDrain (nSym s) s.gar
        dout := s.dout ++ (wordsOf (drained (nSym s) s.gar.oring) ++
          [boolWord (underflowed (nSym s) s.gar.oring)]) }) := by
  change execGarExtract s = _
  rw [execGarExtract, runOp_runs (by rw [hp]; rfl) (Nat.zero_le _)]
  rfl

/-! The quotient where a strobe is declared -/

theorem rLt_iff (a b : Real32) :
    rLt a b = true ↔ isNaN a = false ∧ isNaN b = false ∧ orderKey a < orderKey b := by
  simp [rLt, and_assoc]

theorem orderKey_of_nonneg {a : Real32} (h : 0 ≤ orderKey a) :
    orderKey a = magBits a ∧ (signBit a = true → magBits a = 0) := by
  cases hs : signBit a with
  | false => exact ⟨by simp [orderKey, hs], nofun⟩
  | true =>
    simp only [orderKey, hs, if_true] at h ⊢
    omega

theorem orderKey_nonneg {a : Real32} (hna : isNaN a = false) (h : rLt a rZero = false) : 0 ≤ orderKey a := by
  by_contra hneg
  have hbelow := (rLt_iff a rZero).2 ⟨hna, by decide, not_le.1 hneg⟩
  rw [h] at hbelow
  cases hbelow

/-- Of two values in order, the lower not below 0, the magnitudes are in order and the greater is positive. -/
theorem magBits_lt_of_rLt {a b : Real32} (ha : rLt a rZero = false) (hlt : rLt a b = true) :
    magBits a < magBits b ∧ (signBit a = true → magBits a = 0) ∧ signBit b = false := by
  obtain ⟨hna, -, hkey⟩ := (rLt_iff a b).1 hlt
  have hnonneg := orderKey_nonneg hna ha
  obtain ⟨hkeya, hsa⟩ := orderKey_of_nonneg hnonneg
  obtain ⟨hkeyb, hsb⟩ := orderKey_of_nonneg (hnonneg.trans hkey.le)
  have hmag : magBits a < magBits b := by omega
  refine ⟨hmag, hsa, Bool.eq_false_iff.2 fun hs => ?_⟩
  rw [hsb hs] at hmag
  cases hmag

/-- `rDiv_inUnit` without the bound on the dividend: the magnitude of the quotient is a ratio of at most 1, its sign is
set for a negative zero only, and an infinite divisor gives a zero. -/
theorem rDiv_inUnit_of_nonneg {a b : Real32} (ha : rLt a rZero = false) (hlt : rLt a b = true) : InUnit (rDiv a b) := by
  obtain ⟨hna, hnb, -⟩ := (rLt_iff a b).1 hlt
  obtain ⟨hmag, hsa, hsignb⟩ := magBits_lt_of_rLt ha hlt
  have hia : isInf a = false := by
    simp only [isInf, isNaN, decide_eq_false_iff_not] at hnb ⊢
    omega
  have hzb : isZero b = false := decide_eq_false (by omega)
  have hunits : magUnits a < magUnits b := by
    rw [magUnits_eq_magValue, magUnits_eq_magValue]
    exact magValue_strictMono hmag
  have hquot : rDiv a b = if isInf b then packBits (signBit a) 0
      else roundRatio (signBit a) (magUnits a * 2 ^ 149) (magUnits b) := by
    simp [rDiv, hna, hnb, hia, hzb, hsignb]
  rw [hquot]
  split
  · exact ⟨by rw [magBits_packBits _ (by decide)]; exact Nat.zero_le _, fun _ => magBits_packBits _ (by decide)⟩
  · refine ⟨magBits_roundRatio_le_one _ (by omega) (Nat.mul_le_mul_right _ hunits.le), fun hs => ?_⟩
    rw [signBit_roundRatio] at hs
    rw [magUnits_eq_magValue a, hsa hs, magValue_zero, Nat.zero_mul, roundRatio_zero, magBits_packBits _ (by decide)]

/-! The two counters -/

/-- `t` follows `s` with one more status, neither counter lower, and one more underflow exactly for
`ProcessingAborted`. -/
def Counted (s t : State) : Prop :=
  s.gar.ovfCnt ≤ t.gar.ovfCnt ∧
    t.gar.udfCnt = s.gar.udfCnt + (if t.stat = s.stat ++ [.processingAborted] then 1 else 0)

/-- No status pushed, no underflow counted, and the overflow counter not lower. -/
structure Uncounted (s u : State) : Prop where
  stat : u.stat = s.stat
  udf : u.gar.udfCnt = s.gar.udfCnt
  ovf : s.gar.ovfCnt ≤ u.gar.ovfCnt

theorem Uncounted.of_eq {s u : State} (hstat : u.stat = s.stat) (hgar : u.gar = s.gar) : Uncounted s u :=
  ⟨hstat, by rw [hgar], by rw [hgar]⟩

theorem Uncounted.trans {s u t : State} (h : Uncounted s u) (h' : Uncounted u t) : Uncounted s t :=
  ⟨h'.stat.trans h.stat, h'.udf.trans h.udf, h.ovf.trans h'.ovf⟩

/-- The end of an operation pushes its status, and the counters are those of the rule. -/
theorem finish_counted_iff {s u : State} (hstat : u.stat = s.stat) (c : Status) :
    Counted s (finish c u) ↔ s.gar.ovfCnt ≤ u.gar.ovfCnt ∧
      u.gar.udfCnt = s.gar.udfCnt + (if c = .processingAborted then 1 else 0) := by
  simp [Counted, hstat]

theorem Uncounted.counted_ok {s u : State} (h : Uncounted s u) : Counted s (finish .ok u) := by
  rw [finish_counted_iff h.stat]
  exact ⟨h.ovf, h.udf⟩

theorem takeFault_counted {c : Status} (hc : c ≠ .processingAborted) (s : State) : Counted s (takeFault c s) :=
  ⟨le_rfl, by simp [hc]⟩

/-- The drain counts the underflow that its status tells. -/
theorem Uncounted.counted_drain {s u : State} (h : Uncounted s u) (n : Nat) (ws : List Word) :
    Counted s (finish (drainStatus n u.gar) (pushWords ws { u with gar := garDrain n u.gar })) := by
  have hstat : (pushWords ws { u with gar := garDrain n u.gar }).stat = s.stat := h.stat
  rw [finish_counted_iff hstat]
  refine ⟨h.ovf, ?_⟩
  rcases Nat.lt_or_ge u.gar.oring.length n with hlt | hle
  · simp [drainStatus_of_lt hlt, garDrain_of_lt hlt, h.udf]
  · simp [drainStatus_of_le hle, garDrain_of_le hle, h.udf]

theorem garStep_uncounted (s : State) (x : C) : Uncounted s (garStep s x).state :=
  have ⟨_, _, hudf, _⟩ := garAfter_keeps s (farDot (farShift x s.far))
  ⟨rfl, hudf, garAfter_ovfCnt_le s _⟩

theorem foldl_garStep_uncounted (xs : List C) (s : State) :
    Uncounted s (xs.foldl (fun t x => (garStep t x).state) s) :=
  List.foldlRecOn (motive := Uncounted s) xs _ (.of_eq rfl rfl) fun u hu x _ => hu.trans (garStep_uncounted u x)

theorem synSample_uncounted (s : State) (x : C) : Uncounted s (synSample s x) :=
  synSample_keeps (P := Uncounted s) (fun _ _ hu => hu.trans (.of_eq rfl rfl))
    (fun u z hu => hu.trans (garStep_uncounted u z)) (fun _ _ hu => hu.trans (.of_eq rfl rfl)) (.of_eq rfl rfl) x

theorem foldl_synSample_uncounted (xs : List C) (s : State) : Uncounted s (xs.foldl synSample s) :=
  List.foldlRecOn (motive := Uncounted s) xs _ (.of_eq rfl rfl) fun u hu x _ => hu.trans (synSample_uncounted u x)

/-- No register is a counter. -/
theorem cfgWrite_uncounted (r : CfgReg) (v : Word) (s : State) : Uncounted s (cfgWrite r v s) := by
  obtain ⟨-, hgar, -⟩ := cfgWrite_frame r v s
  have hstat : (cfgWrite r v s).stat = s.stat := by cases r <;> rfl
  exact ⟨hstat, by rw [hgar], by rw [hgar]⟩

theorem writeReg_counted (a : Nat) (v : Word) (s : State) : Counted s (writeReg a v s) := by
  unfold writeReg
  split
  · exact takeFault_counted (by decide) s
  · split
    · exact (cfgWrite_uncounted _ v s).counted_ok
    · exact takeFault_counted (by decide) s

/-- Every operation: those that drain end by `Uncounted.counted_drain`, and no other ends with `ProcessingAborted`. -/
theorem exec_counted {i : Instr} {s t : State} (he : exec i s = .next t) : Counted s t := by
  have counts : ∀ {body : State → State}, runOp i body s = .next t → Counted s (body s) → Counted s t :=
    fun hrun hbody => runOp_keeps (P := Counted s) (takeFault_counted (by decide) s) (fun _ _ => hbody) hrun
  cases i <;> dsimp only [exec] at he <;> refine counts he ?_
  case sysBuild =>
    split
    · exact Uncounted.counted_ok ⟨rfl, rfl, le_rfl⟩
    · exact takeFault_counted (by decide) s
  case cfgWr a => exact writeReg_counted a _ (popWord s).2
  case cfgRd a =>
    split
    · exact takeFault_counted (by decide) s
    · exact Uncounted.counted_ok (.of_eq rfl rfl)
  case garStep =>
    have hstep := garStep_uncounted (popC s).2 (popC s).1
    exact Uncounted.counted_ok (s := s) ⟨hstep.stat, hstep.udf, hstep.ovf⟩
  case garSync =>
    have hblock := foldl_garStep_uncounted (popBlock (nSmp s) s).1 (popBlock (nSmp s) s).2
    exact Uncounted.counted_ok (s := s) ⟨hblock.stat, hblock.udf, hblock.ovf⟩
  case garExtract => exact Uncounted.counted_drain (u := s) (.of_eq rfl rfl) (nSym s) _
  case synSync =>
    have hblock := foldl_synSample_uncounted (popBlock (nSmp s) s).1 (popBlock (nSmp s) s).2
    exact Uncounted.counted_drain (s := s) ⟨hblock.stat, hblock.udf, hblock.ovf⟩ (nSym s) _
  case garReset | sysReset | synReset => exact Uncounted.counted_ok ⟨rfl, rfl, le_rfl⟩
  all_goals exact Uncounted.counted_ok (.of_eq rfl rfl)

end Sys2Proof.Machine

open Sys2Proof Sys2Proof.Machine

/-- Settles O26: the next state is `exec_garStep`'s, and its elements are those of `garAfter` and `garStep_far`. -/
theorem garStepResult : Obligations.GarStepResult := by
  intro s x rest hp hd
  refine ⟨_, exec_garStep hp hd, ?_⟩
  obtain ⟨hkp, hki, hudf, hsym, -⟩ := garAfter_keeps s (farDot (farShift x s.far))
  obtain ⟨hnone, hone, htwo⟩ := garAfter_ted s (farDot (farShift x s.far))
  obtain ⟨hstate, hout⟩ := garAfter_filter s (farDot (farShift x s.far))
  obtain ⟨hstrobe, hmu, hnco⟩ := garAfter_control s (farDot (farShift x s.far))
  obtain ⟨hwindow, hfmu, hfb⟩ := garStep_far s x
  rw [show (garStep s x).state.gar.isStrobe = _ from hstrobe] at hfmu hfb
  exact ⟨rfl, hsym, garAfter_sh s _, garAfter_tedErr s _, hnone, hone, htwo, hstate, hout, hstrobe, hmu, hnco,
    garAfter_ring_of_not_strobe s _, garAfter_ring_of_full s _, garAfter_ring_of_room s _, hkp, hki, hudf, hwindow,
    hfmu, hfb, rfl⟩

/-- Settles O27: `N_SMP` steps by `execMany_garStep`, which leave the block's fold but for the ports. -/
theorem garSyncIsItsSteps : Obligations.GarSyncIsItsSteps := by
  intro s hp hd
  obtain ⟨o, c, hmany⟩ := execMany_garStep (nSmp s) hp hd
  refine ⟨_, hmany, ?_⟩
  rw [exec_garSync hp hd]

/-- Settles O28: the drain with and without the underflow. -/
theorem garExtractResult : Obligations.GarExtractResult := by
  intro s hp
  rw [exec_garExtract hp]
  refine ⟨fun hle => ?_, fun hlt => ?_⟩
  · rw [underflowed_eq_false hle, garDrain_of_le hle, drainStatus_of_le hle, drained_of_le hle, ← List.append_assoc]
    rfl
  · rw [underflowed_eq_true hlt, garDrain_of_lt hlt, drainStatus_of_lt hlt, wordsOf_drained_of_lt hlt,
      ← List.append_assoc, ← List.append_assoc]
    rfl

/-- Settles O29: the operation runs and takes nothing from `DIN`. -/
theorem garResetResult : Obligations.GarResetResult := by
  intro s hp
  change execGarReset s = _
  rw [execGarReset, runOp_runs (by rw [hp]; rfl) (Nat.zero_le _)]
  rfl

/-- Settles O30: what is not below 0 divided by something greater, as in `rDiv_inUnit_of_nonneg`. -/
theorem strobeOffsetAtMostOne : Obligations.StrobeOffsetAtMostOne := fun _ _ ha hlt =>
  (inUnit_iff _).1 (rDiv_inUnit_of_nonneg ha hlt)

/-- Settles O20: an unimplemented word counts nothing, and an operation what `exec_counted` says. -/
theorem countersNeverDecrease : Obligations.CountersNeverDecrease := by
  intro s t hrst hstep
  rcases step_cases s with ⟨hr, -⟩ | ⟨-, -, e⟩ | ⟨-, cw, rest, -, ⟨-, -, e⟩ | ⟨i, -, e⟩⟩
  · rw [hrst] at hr
    cases hr
  · rw [e] at hstep
    cases hstep
  · rw [e] at hstep
    cases hstep
    exact takeFault_counted (c := .unimplemented) nofun { s with cmd := rest }
  · exact exec_counted (s := { s with cmd := rest }) (e ▸ hstep)
end

/-! PROOFS. The operations of CFR (42_coarse_freq.md): their complete next states, a block as its steps, and the
rotation at phase 0, where every operation of the complex product is exact. -/
section
namespace Sys2Proof.Machine

/-! One sample and a block -/

theorem exec_cfrStep {s : State} {x : C} {rest : List Word} (hp : s.sys.phase = .run)
    (hd : s.din = x.re :: x.im :: rest) :
    exec .cfrStep s = .next { s with
      din := rest
      cfr := cfrAdvance s.cfr
      dout := s.dout ++ wordsOf [cfrRotated s.cfr x]
      stat := s.stat ++ [.ok] } := by
  change execCfrStep s = _
  rw [execCfrStep, runOp_runs (by rw [hp]; rfl) (by simp [dinWords, hd]), popC_of_din hd]
  rfl

/-- A stream that holds one sample more than `n` begins with a sample and holds `n` behind it. -/
theorem sample_cons_of_le {n : Nat} {ws : List Word} (h : 2 * (n + 1) ≤ ws.length) :
    ∃ (x : C) (rest : List Word), ws = x.re :: x.im :: rest ∧ 2 * n ≤ rest.length := by
  match ws, h with
  | re :: im :: rest, h =>
    simp only [List.length_cons] at h
    exact ⟨⟨re, im⟩, rest, rfl, by omega⟩
  | [_], h =>
    simp only [List.length_singleton] at h
    omega

/-- `n` steps in a row are the block of their samples, each step with its own status. -/
theorem execMany_cfrStep (n : Nat) {s : State} (hp : s.sys.phase = .run) (hd : 2 * n ≤ s.din.length) :
    execMany .cfrStep n s = .next { s with
      din := s.din.drop (2 * n)
      cfr := (cfrRotateBlock s.cfr (samplesOf n s.din)).2
      dout := s.dout ++ wordsOf (cfrRotateBlock s.cfr (samplesOf n s.din)).1
      stat := s.stat ++ List.replicate n .ok } := by
  induction n generalizing s with
  | zero => simp [execMany, samplesOf, cfrRotateBlock]
  | succ n ih =>
    obtain ⟨x, rest, hdin, hrest⟩ := sample_cons_of_le hd
    rw [execMany, exec_cfrStep hp hdin]
    dsimp only
    rw [ih, hdin]
    · simp [samplesOf, cfrRotateBlock, Nat.mul_succ, List.replicate_succ]
    · exact hp
    · exact hrest

theorem exec_cfrSync {s : State} (hp : s.sys.phase = .run) (hd : 2 * nSmp s ≤ s.din.length) :
    exec .cfrSync s = .next { s with
      din := s.din.drop (2 * nSmp s)
      cfr := (cfrRotateBlock s.cfr (samplesOf (nSmp s) s.din)).2
      dout := s.dout ++ wordsOf (cfrRotateBlock s.cfr (samplesOf (nSmp s) s.din)).1
      stat := s.stat ++ [.ok] } := by
  change execCfrSync s = _
  rw [execCfrSync, runOp_runs (by rw [hp]; rfl) (show dinWords s .cfrSync ≤ _ from hd)]
  rfl

/-! The pilot update -/

theorem exec_cfrUpd {s : State} {p : C} {rest : List Word} (hp : s.sys.phase = .run)
    (hd : s.din = p.re :: p.im :: rest) :
    exec .cfrUpd s = .next { s with din := rest, cfr := cfrUpdate p s.cfr, stat := s.stat ++ [.ok] } := by
  change execCfrUpd s = _
  rw [execCfrUpd, runOp_runs (by rw [hp]; rfl) (by simp [dinWords, hd]), popC_of_din hd]
  rfl

theorem cfrUpdate_of_open {c : Cfr} (h : c.active = true) (p : C) :
    cfrUpdate p c =
      let err := (cMul p (cConj c.p2)).im
      let st := rAdd c.lfState (rMul c.ki err)
      { c with err := err, lfState := st, freq := rAdd (rMul c.kp err) st, p2 := c.p1, p1 := p } :=
  if_pos h

theorem cfrUpdate_of_closed {c : Cfr} (h : c.active = false) (p : C) : cfrUpdate p c = c :=
  if_neg (by simp [h])

/-! The rotation at phase 0 -/

theorem hasValue_rNeg {x : Real32} {q : ℚ} (h : HasValue x q) : HasValue (rNeg x) (-q) := by
  refine ⟨by rw [isFinite_rNeg, h.1], ?_⟩
  rw [← h.2, valueOf, valueOf, units_rNeg, Int.cast_neg, neg_div]

/-- Only a NaN tells a difference from the sum with the negated operand. -/
theorem rSub_eq_rAdd_rNeg {a b : Real32} (ha : isFinite a = true) (hb : isFinite b = true) :
    rSub a b = rAdd a (rNeg b) := by
  obtain ⟨hna, hia⟩ := not_nan_inf_of_finite ha
  obtain ⟨hnb, hib⟩ := not_nan_inf_of_finite hb
  simp [rSub, rAdd, addAs, hna, hia, hnb, hib]

theorem hasValue_rSub_zero {a b : Real32} {q : ℚ} (ha : HasValue a q) (hb : HasValue b 0) :
    HasValue (rSub a b) q := by
  rw [rSub_eq_rAdd_rNeg ha.1 hb.1]
  exact hasValue_rAdd_zero ha (by simpa using hasValue_rNeg hb)

theorem hasValue_rMul_one {x : Real32} {q : ℚ} (h : HasValue x q) : HasValue (rMul x rOne) q := by
  simpa using hasValue_rMul h hasValue_one (by rwa [mul_one])

/-- The product with a zero of either sign. -/
theorem hasValue_rMul_zero {x z : Real32} {q : ℚ} (h : HasValue x q) (hz : HasValue z 0) : HasValue (rMul x z) 0 := by
  simpa using hasValue_rMul h hz (x := z) (by rwa [mul_zero])

/-- The rotator at phase 0 is 1 with an imaginary part that is a zero. -/
theorem rot_zero : rot rZero = { re := rOne, im := rNeg rZero } := by
  simp [rot]

/-- The product with the rotator of phase 0 has the value of the sample. -/
theorem hasValue_cMul_rot_zero {x : C} {p q : ℚ} (hre : HasValue x.re p) (him : HasValue x.im q) :
    HasValue (cMul x (rot rZero)).re p ∧ HasValue (cMul x (rot rZero)).im q := by
  have hneg : HasValue (rNeg rZero) 0 := by simpa using hasValue_rNeg hasValue_zero
  rw [rot_zero]
  exact ⟨hasValue_rSub_zero (hasValue_rMul_one hre) (hasValue_rMul_zero him hneg),
    hasValue_zero_rAdd (hasValue_rMul_zero hre hneg) (hasValue_rMul_one him)⟩

end Sys2Proof.Machine

open Sys2Proof Sys2Proof.Machine

/-- Settles O31: `exec_cfrStep`, the product and the fraction written out. -/
theorem cfrStepResult : Obligations.CfrStepResult := fun _ re im _ hp hd =>
  exec_cfrStep (x := ⟨re, im⟩) hp hd

/-- Settles O32: the output is the product with the rotator of phase 0. -/
theorem rotationAtPhaseZero : Obligations.RotationAtPhaseZero := by
  intro s re im rest hp hd htheta hre him
  obtain ⟨⟨href, hrev⟩, himf, himv⟩ :=
    hasValue_cMul_rot_zero (x := ⟨re, im⟩) (hasValue_of_finite hre) (hasValue_of_finite him)
  refine ⟨_, cMul ⟨re, im⟩ (rot rZero), exec_cfrStep (x := ⟨re, im⟩) hp hd, ?_, href, himf, hrev, himv⟩
  rw [cfrRotated, htheta]
  rfl

/-- Settles O33: `N_SMP` steps by `execMany_cfrStep`, which leave what the block leaves but for the statuses. -/
theorem cfrSyncIsItsSteps : Obligations.CfrSyncIsItsSteps := by
  intro s hp hd
  refine ⟨_, execMany_cfrStep (nSmp s) hp hd, exec_cfrSync hp hd, cfrRotateBlock_frame _ _, ?_⟩
  rw [List.length_append, length_wordsOf, length_cfrRotateBlock, length_samplesOf _ _ hd]

/-- Settles O34: the gate decides whether `cfr_update` changes CFR. -/
theorem cfrUpdResult : Obligations.CfrUpdResult := by
  intro s re im rest hp hd
  have hexec := exec_cfrUpd (p := ⟨re, im⟩) hp hd
  refine ⟨fun hopen => ?_, fun hclosed => ?_⟩
  · rw [hexec, cfrUpdate_of_open hopen]
    rfl
  · rw [hexec, cfrUpdate_of_closed hclosed]

/-- Settles O35: the operation runs and takes nothing from `DIN`. -/
theorem cfrResetResult : Obligations.CfrResetResult := by
  intro s hp
  change execCfrReset s = _
  rw [execCfrReset, runOp_runs (by rw [hp]; rfl) (Nat.zero_le _)]
  rfl
end

/-! PROOFS. The operations of FRM (43_frame_sync.md): the correlation as two running sums, what each position sees, the
first maximum, the delay and the realigned block, and with them the next states of `FRM.SYNC` and `FRM.RESET`. -/
section
namespace Sys2Proof.Machine

/-! The correlation -/

/-- A correlation reads no more of the window than it has reference symbols. -/
theorem correlate_take (acc : C) (hs rs : List C) : correlate acc (hs.take rs.length) rs = correlate acc hs rs := by
  induction rs generalizing acc hs with
  | nil => cases hs <;> rfl
  | cons r rs ih =>
    cases hs with
    | nil => rfl
    | cons h hs => exact ih (cAdd acc (cMul h (cConj r))) hs

/-- The running sum over ascending indices, for a window that holds an entry for every reference symbol. -/
theorem correlate_eq_foldl (acc : C) {hs rs : List C} (hlen : rs.length ≤ hs.length) :
    correlate acc hs rs = (List.range rs.length).foldl
      (fun a k => cAdd a (cMul (hs.getD k C0) (cConj (rs.getD k C0)))) acc := by
  induction rs generalizing acc hs with
  | nil => cases hs <;> rfl
  | cons r rs ih =>
    cases hs with
    | nil => simp at hlen
    | cons h hs =>
      rw [correlate, ih _ (Nat.le_of_succ_le_succ hlen), List.length_cons, List.range_succ_eq_map, List.foldl_cons,
        List.foldl_map]
      rfl

/-! The position loop -/

/-- Shifting a symbol in moves it from the stream behind the window into the window. -/
theorem shiftIn_append {α : Type} (w : List α) (v : α) (vs : List α) : shiftIn w v ++ vs = (w ++ v :: vs).tail := by
  rw [shiftIn, ← List.tail_append_of_ne_nil (by simp), List.append_assoc, List.singleton_append]

/-- Every position shifts its symbol into the history. -/
theorem frmPositions_hist (sof plsc : List C) (alpha : Real32) (hist : List C) {cs : List Real32} {xs : List C}
    (hlen : cs.length = xs.length) :
    (frmPositions sof plsc alpha hist cs xs).2 = (hist ++ xs).drop xs.length := by
  induction xs generalizing hist cs with
  | nil => cases cs <;> simp [frmPositions]
  | cons x xs ih =>
    cases cs with
    | nil => simp at hlen
    | cons c cs =>
      rw [frmPositions, ih _ (Nat.succ.inj hlen), shiftIn_append, List.drop_tail, List.length_cons]

/-- Each position is smoothed with the correlation of the window as it stands before the position's own symbol. -/
theorem frmPositions_getD (sof plsc : List C) (alpha : Real32) (hist : List C) {cs : List Real32} {xs : List C}
    (hlen : cs.length = xs.length) {i : Nat} (hi : i < cs.length) :
    (frmPositions sof plsc alpha hist cs xs).1.getD i rZero =
      smooth alpha (cs.getD i rZero) (frmCorr sof plsc (((hist ++ xs).drop i).take hist.length)) := by
  induction xs generalizing hist cs i with
  | nil =>
    rw [hlen] at hi
    exact absurd hi (Nat.not_lt_zero i)
  | cons x xs ih =>
    cases cs with
    | nil => exact absurd hi (Nat.not_lt_zero i)
    | cons c cs =>
      cases i with
      | zero => simp [frmPositions]
      | succ i =>
        have hrest := ih (shiftIn hist x) (Nat.succ.inj hlen) (Nat.lt_of_succ_lt_succ hi)
        rw [shiftIn_append, List.drop_tail, length_shiftIn] at hrest
        simpa only [frmPositions, List.getD_cons_succ] using hrest

/-! The peak -/

/-- What is not greater than a value is a NaN or below everything greater than that value. -/
theorem isNaN_or_rGt_of_not_rGt {a b c : Real32} (hab : rGt a b = false) (hcb : rGt c b = true) :
    isNaN a = true ∨ rGt c a = true := by
  obtain ⟨hb, hc, hlt⟩ := (rLt_iff b c).1 hcb
  rcases Bool.eq_false_or_eq_true (isNaN a) with ha | ha
  · exact .inl ha
  · have hle : orderKey a ≤ orderKey b := by
      by_contra hba
      exact Bool.false_ne_true (hab.symm.trans ((rLt_iff b a).2 ⟨hb, ha, not_le.1 hba⟩))
    exact .inr ((rLt_iff a c).2 ⟨ha, hc, hle.trans_lt hlt⟩)

/-- What is not greater than a value is not greater than anything above that value. -/
theorem not_rGt_of_rGt {a b c : Real32} (hab : rGt a b = false) (hcb : rGt c b = true) : rGt a c = false := by
  cases hac : rGt a c with
  | false => rfl
  | true => exact (rLt_trans hcb hac).symm.trans hab

theorem not_isNaN_of_rGt {a b : Real32} (h : rGt a b = true) : isNaN a = false ∧ isNaN b = false := by
  obtain ⟨hb, ha, -⟩ := (rLt_iff b a).1 h
  exact ⟨ha, hb⟩

/-- The invariant of the peak search (43_frame_sync.md R195): `best` is the first maximum of the first `i` entries, and
it has left entry 0 only for something greater. -/
structure FirstMaximum (cs : List Real32) (i : Nat) (best : Nat × Real32) : Prop where
  index : best.1 < i
  value : cs.getD best.1 rZero = best.2
  greatest : ∀ j, j < i → rGt (cs.getD j rZero) best.2 = false
  first : ∀ j, j < best.1 → isNaN (cs.getD j rZero) = true ∨ rGt best.2 (cs.getD j rZero) = true
  moved : best.1 ≠ 0 → rGt best.2 (cs.getD 0 rZero) = true

theorem FirstMaximum.head (cs : List Real32) : FirstMaximum cs 1 (0, cs.getD 0 rZero) where
  index := Nat.one_pos
  value := rfl
  greatest j hj := by
    rw [Nat.lt_one_iff.1 hj]
    exact rLt_irrefl _
  first _ hj := absurd hj (Nat.not_lt_zero _)
  moved h := absurd rfl h

/-- An entry that is not greater leaves the peak. -/
theorem FirstMaximum.stay {cs : List Real32} {i : Nat} {best : Nat × Real32} (h : FirstMaximum cs i best)
    (hle : rGt (cs.getD i rZero) best.2 = false) : FirstMaximum cs (i + 1) best where
  index := Nat.lt_succ_of_lt h.index
  value := h.value
  greatest j hj := by
    rcases Nat.lt_succ_iff_lt_or_eq.1 hj with hj | rfl
    · exact h.greatest j hj
    · exact hle
  first := h.first
  moved := h.moved

/-- A greater entry becomes the peak. -/
theorem FirstMaximum.move {cs : List Real32} {i : Nat} {best : Nat × Real32} (h : FirstMaximum cs i best)
    (hgt : rGt (cs.getD i rZero) best.2 = true) : FirstMaximum cs (i + 1) (i, cs.getD i rZero) where
  index := Nat.lt_succ_self i
  value := rfl
  greatest j hj := by
    rcases Nat.lt_succ_iff_lt_or_eq.1 hj with hj | rfl
    · exact not_rGt_of_rGt (h.greatest j hj) hgt
    · exact rLt_irrefl _
  first j hj := isNaN_or_rGt_of_not_rGt (h.greatest j hj) hgt
  moved _ := by
    by_cases hzero : best.1 = 0
    · rwa [← h.value, hzero] at hgt
    · exact rLt_trans (h.moved hzero) hgt

theorem FirstMaximum.after_peakFrom {cs l : List Real32} {i : Nat} {best : Nat × Real32} (h : FirstMaximum cs i best)
    (hl : cs.drop i = l) : FirstMaximum cs (i + l.length) (peakFrom i best l) := by
  induction l generalizing i best with
  | nil => exact h
  | cons c l ih =>
    have hc : cs.getD i rZero = c := by simpa using congrArg (List.getD · 0 rZero) hl
    have htail : cs.drop (i + 1) = l := by simpa using congrArg List.tail hl
    rw [List.length_cons, Nat.add_comm l.length, ← Nat.add_assoc, peakFrom]
    refine ih ?_ htail
    split
    next hgt => exact hc ▸ h.move (hc.symm ▸ hgt)
    next hle => exact h.stay (hc.symm ▸ Bool.eq_false_iff.2 hle)

theorem peak_firstMaximum {cs : List Real32} (hne : cs ≠ []) : FirstMaximum cs cs.length (peak cs) := by
  cases cs with
  | nil => exact absurd rfl hne
  | cons c cs => simpa [peak, Nat.add_comm] using (FirstMaximum.head (c :: cs)).after_peakFrom (l := cs) rfl

/-! The delay and the realigned block -/

/-- A peak `hdrLen` positions after `p`, counted round the block, is mapped back to `p`. -/
theorem frameDelay_add_hdrLen_mod {n p : Nat} (hp : p < n) : frameDelay n ((p + hdrLen) % n) = p := by
  have hmod : ((n : Int) + ((p + hdrLen) % n : Nat) - hdrLen) % n = p := by
    calc ((n : Int) + ((p + hdrLen) % n : Nat) - hdrLen) % n
      _ = ((n : Int) + (p + hdrLen : Nat) - hdrLen) % n := by
        rw [Int.natCast_mod]
        exact ((Int.mod_modEq _ _).add_left _).sub_right _
      _ = ((p : Int) + n) % n := by
        congr 1
        push_cast
        ring
      _ = p := by rw [Int.add_emod_right, Int.emod_eq_of_lt (Int.natCast_nonneg p) (Int.ofNat_lt.2 hp)]
  rw [frameDelay, hmod, Int.toNat_natCast]

theorem lineDelay_zero (n : Nat) : lineDelay n 0 = 0 := by
  rw [lineDelay, Nat.sub_zero, Nat.mod_self]

theorem lineDelay_of_pos {n delay : Nat} (hpos : 0 < delay) (hlt : delay < n) : lineDelay n delay = n - delay :=
  Nat.mod_eq_of_lt (Nat.sub_lt (hpos.trans hlt) hpos)

theorem realigned_zero {n : Nat} (dl : List C) {xs : List C} (hxs : xs.length = n) : realigned n 0 dl xs = xs := by
  refine List.ext_getElem (by simp [hxs]) fun i _ hi => ?_
  simp [realigned, lineDelay_zero, List.getElem?_eq_getElem hi]

/-- Entry `i` of the realigned block comes from the previous block while `i` is below `n - delay`. -/
theorem realigned_of_pos {n delay : Nat} {dl xs : List C} (hdl : dl.length = n) (hxs : xs.length = n)
    (hpos : 0 < delay) (hlt : delay < n) : realigned n delay dl xs = dl.drop delay ++ xs.take delay := by
  have hdrop : (dl.drop delay).length = n - delay := by rw [List.length_drop, hdl]
  refine List.ext_getElem (by simp [hdl, hxs]; omega) fun i hi _ => ?_
  rw [length_realigned] at hi
  rw [List.getElem_append]
  simp only [realigned, List.getElem_map, List.getElem_range, lineDelay_of_pos hpos hlt, hdrop]
  rcases Nat.lt_or_ge i (n - delay) with hprev | hnow
  · rw [if_neg (Nat.not_le.2 hprev), dif_pos hprev, List.getElem_drop, Nat.sub_sub_self hlt.le,
      List.getD_eq_getElem]
  · rw [if_pos hnow, dif_neg (Nat.not_lt.2 hnow), List.getElem_take, List.getD_eq_getElem]

/-! The operations -/

theorem exec_frmSync {s : State} {xs : List C} {rest : List Word} (hp : s.sys.phase = .run)
    (hxs : xs.length = nSym s) (hd : s.din = wordsOf xs ++ rest) :
    exec .frmSync s = .next { s with
      din := rest
      frm := frmAfter (nSym s) xs s.frm
      dout := s.dout ++ (wordsOf (realigned (nSym s) (frmAfter (nSym s) xs s.frm).delay s.frm.dl xs) ++
        [BitVec.ofNat 32 (frmAfter (nSym s) xs s.frm).delay, boolWord (frmAfter (nSym s) xs s.frm).flag,
          (frmAfter (nSym s) xs s.frm).maxCorr])
      stat := s.stat ++ [.ok] } := by
  have hpop := hxs ▸ popBlock_block hd
  change execFrmSync s = _
  rw [execFrmSync, runOp_runs (by rw [hp]; rfl) (by simp [dinWords, hd, hxs]), hpop]
  rfl

end Sys2Proof.Machine

open Sys2Proof Sys2Proof.Machine

/-- Settles O37: each sum is its fold over the reference's indices, the second over the window from entry 25 on. -/
theorem correlationSums : Obligations.CorrelationSums := by
  intro sof plsc hist hsof hplsc hhist
  dsimp only
  have hS := correlate_eq_foldl C0 (hs := hist) (rs := sof) (by omega)
  have hP := correlate_eq_foldl C0 (hs := hist.drop 25) (rs := plsc) (by simp; omega)
  rw [← correlate_take, hsof] at hS
  simp only [List.getD_eq_getElem?_getD, List.getElem?_drop, hplsc] at hS hP ⊢
  rw [← hS, ← hP]
  rfl

/-- Settles O38: the history and the entries of the vector after the position loop. -/
theorem positionsSeeEarlierSymbols : Obligations.PositionsSeeEarlierSymbols := by
  intro sof plsc hist xs alpha cs hhist hlen
  refine ⟨(length_frmPositions sof plsc alpha hist cs xs).1, frmPositions_hist sof plsc alpha hist hlen,
    fun i hi => ?_⟩
  rw [frmPositions_getD sof plsc alpha hist hlen hi, hhist]
  rfl

/-- Settles O39: the invariant of the search at its end; a NaN at entry 0, or as the peak, has never been left. -/
theorem peakIsFirstMaximum : Obligations.PeakIsFirstMaximum := by
  intro cs hne
  have h := peak_firstMaximum hne
  refine ⟨h.index, h.value, h.greatest, h.first, fun hnan => ?_, fun hnan => ?_⟩ <;> by_contra hmoved
  · exact Bool.false_ne_true ((not_isNaN_of_rGt (h.moved hmoved)).2.symm.trans hnan)
  · exact Bool.false_ne_true ((not_isNaN_of_rGt (h.moved hmoved)).1.symm.trans hnan)

/-- Settles O40, with `hdrLen` written out. -/
theorem delayFindsHeader : Obligations.DelayFindsHeader := fun _ _ hp => frameDelay_add_hdrLen_mod hp

/-- Settles O41: the line is set to `n - delay` unless the delay is 0. -/
theorem realignedBlock : Obligations.RealignedBlock := by
  intro n delay dl xs hdl hxs hlt
  refine ⟨fun hne => realigned_of_pos hdl hxs (Nat.pos_of_ne_zero hne) hlt, fun hzero => ?_⟩
  rw [hzero]
  exact realigned_zero dl hxs

/-- Settles O36: `exec_frmSync`, with FRM after the block written out. -/
theorem frmSyncResult : Obligations.FrmSyncResult := by
  intro s xs rest hp hxs hd
  rw [exec_frmSync hp hxs hd, ← List.append_assoc]
  rfl

/-- Settles O42: the operation runs and takes nothing from `DIN`. -/
theorem frmResetResult : Obligations.FrmResetResult := by
  intro s hp
  change execFrmReset s = _
  rw [execFrmReset, runOp_runs (by rw [hp]; rfl) (Nat.zero_le _)]
  rfl
end

/-! PROOFS. The operations of SYN (44_fused_step.md): the pilot zone as blocks, one sample of the fused step in terms of
the units' own steps, the block with its drain, and the separate passes that do the same where the gate is closed. -/
section
namespace Sys2Proof.Machine

/-! The pilot zone -/

theorem pilotZone_iff (i : Nat) : pilotZone i = true ↔ 1530 ≤ i ∧ 54 ≤ i % 1476 ∧ i % 1476 < 90 :=
  decide_eq_true_iff

theorem pilotZone_iff_exists_block (i : Nat) :
    pilotZone i = true ↔ ∃ p, 1530 + 1476 * p ≤ i ∧ i ≤ 1530 + 1476 * p + 35 := by
  rw [pilotZone_iff]
  constructor
  · rintro ⟨hfirst, hlo, hhi⟩
    exact ⟨(i - 1530) / 1476, by omega, by omega⟩
  · rintro ⟨p, hlo, hhi⟩
    omega

theorem pilotZone_of_lt {i : Nat} (h : i < 1530) : pilotZone i = false := by
  rw [Bool.eq_false_iff, ne_eq, pilotZone_iff]
  omega

/-! One sample -/

/-- What the matched filter makes of a sample rotated by CFR (44_fused_step.md R222 lines 3, 4): its next state and its
answer. -/
def synFiltered (s : State) (x : C) : MatchedFilter × C := mfStep s.mf (cfrRotated s.cfr x)

/-- One sample of the fused step through the steps of the units: the Gardner step takes the filtered rotated sample, and
CFR is advanced, then updated with the Gardner output on a strobe in the pilot zone. -/
theorem synSample_eq (s : State) (x : C) :
    synSample s x = { s with
      far := (garStep s (synFiltered s x).2).state.far
      gar := (garStep s (synFiltered s x).2).state.gar
      cfr := if s.gar.isStrobe = true ∧ pilotZone s.syn.symIdx = true
        then cfrUpdate (garStep s (synFiltered s x).2).y (cfrAdvance s.cfr) else cfrAdvance s.cfr
      mf := (synFiltered s x).1
      syn := { symIdx := if s.gar.isStrobe then (s.syn.symIdx + 1) % nSym s else s.syn.symIdx } } := by
  have hsample : synSample s x =
      let u := { (garStep s (synFiltered s x).2).state with cfr := cfrAdvance s.cfr, mf := (synFiltered s x).1 }
      if s.gar.isStrobe then synStrobe (garStep s (synFiltered s x).2).y u else u := rfl
  rw [hsample]
  cases s.gar.isStrobe with
  | false => rfl
  | true => simp only [true_and]; rfl

/-- `u` with the elements that a sample of the fused step changes taken from `p`. -/
def withSynParts (p u : State) : State :=
  { u with far := p.far, gar := p.gar, cfr := p.cfr, syn := p.syn, mf := p.mf }

/-- A block of the fused step touches FAR, GAR, CFR, SYN and the matched filter only. -/
theorem foldl_synSample_frame (xs : List C) (s : State) :
    xs.foldl synSample s = withSynParts (xs.foldl synSample s) s := by
  have hsample (u : State) (x : C) : withSynParts s (synSample u x) = withSynParts s u := by
    rw [synSample_eq]
    rfl
  have hblock : withSynParts s (xs.foldl synSample s) = withSynParts s s := foldl_leaves (withSynParts s) hsample xs s
  calc xs.foldl synSample s
      = withSynParts (xs.foldl synSample s) (withSynParts s (xs.foldl synSample s)) := rfl
    _ = withSynParts (xs.foldl synSample s) s := by rw [hblock]; rfl

/-- `CFR.UPD` under a condition, its operand placed on `DIN`: it completes, and only CFR among the units can differ. -/
theorem exec_cfrUpd_if {s : State} (hp : s.sys.phase = .run) (b : Prop) [Decidable b] (y : C) (rest : List Word) :
    ∃ t, (if b then exec .cfrUpd { s with din := y.re :: y.im :: rest } else .next s) = .next t ∧
      t.far = s.far ∧ t.gar = s.gar ∧ t.cfr = if b then cfrUpdate y s.cfr else s.cfr := by
  by_cases hb : b
  · exact ⟨_, (if_pos hb).trans (exec_cfrUpd hp rfl), rfl, rfl, (if_pos hb).symm⟩
  · exact ⟨s, if_neg hb, rfl, rfl, (if_neg hb).symm⟩

/-! The block -/

theorem exec_synSync {s t : State} {xs : List C} {rest : List Word} (hp : s.sys.phase = .run)
    (hxs : xs.length = nSmp s) (hd : s.din = wordsOf xs ++ rest)
    (ht : xs.foldl synSample { s with din := rest } = t) :
    exec .synSync s = .next (finish (drainStatus (nSym s) t.gar)
      { s with
        din := rest, far := t.far, cfr := t.cfr, syn := t.syn, mf := t.mf
        gar := garDrain (nSym s) t.gar
        dout := s.dout ++ (wordsOf (drained (nSym s) t.gar.oring) ++
          [t.gar.mu, boolWord (underflowed (nSym s) t.gar.oring)]) }) := by
  have hpop := hxs ▸ popBlock_block hd
  have hframe := foldl_synSample_frame xs { s with din := rest }
  rw [ht] at hframe
  change execSynSync s = _
  rw [execSynSync, runOp_runs (by rw [hp]; rfl) (by simp [dinWords, hd, hxs]), hpop]
  dsimp only
  rw [ht, hframe]
  rfl

/-! The separate passes -/

/-- A Gardner step reads FAR, GAR and SYS, and writes FAR and GAR. -/
theorem garStep_of_units_eq {s u : State} (hfar : u.far = s.far) (hgar : u.gar = s.gar) (hsys : u.sys = s.sys)
    (x : C) :
    (garStep u x).state = { u with far := (garStep s x).state.far, gar := (garStep s x).state.gar } := by
  cases s
  cases u
  cases hfar
  cases hgar
  cases hsys
  rfl

/-- With the gate closed an update has nothing to change, and the identity filter hands on the rotated sample. -/
theorem synSample_of_gate_closed {s : State} (hgate : s.cfr.active = false) (hmf : s.mf = .passThrough) (x : C) :
    synSample s x = { (garStep s (cfrRotated s.cfr x)).state with
      cfr := cfrAdvance s.cfr, syn := (synSample s x).syn } := by
  have hfiltered : synFiltered s x = (s.mf, cfrRotated s.cfr x) := by rw [synFiltered, hmf, mfStep_passThrough]
  have hclosed (y : C) : cfrUpdate y (cfrAdvance s.cfr) = cfrAdvance s.cfr := cfrUpdate_closed (by exact hgate) y
  rw [synSample_eq, hfiltered, hclosed, ite_self]
  rfl

/-- With the gate closed and the identity filter, a block of the fused step leaves CFR as the rotator does, and Gardner
steps on the rotator's output, from a state `u` with the same FAR, GAR and SYS, leave FAR and GAR as the block does. -/
theorem foldl_synSample_of_gate_closed (xs : List C) {s u : State} (hgate : s.cfr.active = false)
    (hmf : s.mf = .passThrough) (hfar : u.far = s.far) (hgar : u.gar = s.gar) (hsys : u.sys = s.sys) :
    (xs.foldl synSample s).cfr = (cfrRotateBlock s.cfr xs).2 ∧
    (cfrRotateBlock s.cfr xs).1.foldl (fun t x => (garStep t x).state) u =
      { u with far := (xs.foldl synSample s).far, gar := (xs.foldl synSample s).gar } := by
  induction xs generalizing s u with
  | nil => rw [List.foldl_nil, ← hfar, ← hgar]; exact ⟨rfl, rfl⟩
  | cons x xs ih =>
    have hfused := synSample_of_gate_closed hgate hmf x
    have hgardner := garStep_of_units_eq hfar hgar hsys (cfrRotated s.cfr x)
    have hcfr : (synSample s x).cfr = cfrAdvance s.cfr := by rw [hfused]
    obtain ⟨hrotator, hblock⟩ := ih (s := synSample s x) (u := (garStep u (cfrRotated s.cfr x)).state)
      (by rw [hcfr]; exact hgate) (by rw [hfused]; exact hmf) (by rw [hfused, hgardner]) (by rw [hfused, hgardner])
      (by rw [hfused, hgardner]; exact hsys)
    rw [hcfr] at hrotator hblock
    exact ⟨hrotator, hblock⟩

theorem exec_cfrSync_block {s : State} {xs : List C} {rest : List Word} (hp : s.sys.phase = .run)
    (hxs : xs.length = nSmp s) (hd : s.din = wordsOf xs ++ rest) :
    exec .cfrSync s = .next { s with
      din := rest
      cfr := (cfrRotateBlock s.cfr xs).2
      dout := s.dout ++ wordsOf (cfrRotateBlock s.cfr xs).1
      stat := s.stat ++ [.ok] } := by
  rw [exec_cfrSync hp (by simp [hd, hxs]), hd, ← hxs, samplesOf_wordsOf, drop_wordsOf]

theorem exec_garSync_block {s : State} {xs : List C} {rest : List Word} (hp : s.sys.phase = .run)
    (hxs : xs.length = nSmp s) (hd : s.din = wordsOf xs ++ rest) :
    exec .garSync s = .next { xs.foldl (fun t x => (garStep t x).state) s with
      din := rest, dout := s.dout, stat := s.stat ++ [.ok] } := by
  rw [exec_garSync hp (by simp [hd, hxs]), hd, ← hxs, samplesOf_wordsOf, drop_wordsOf]

/-- With the gate closed and the identity filter, `CFR.SYNC` and `GAR.SYNC` on its output complete and leave FAR, GAR
and CFR as the fused block does. -/
theorem exec_passes_of_gate_closed {s t : State} {xs : List C} {rest : List Word} (hp : s.sys.phase = .run)
    (hgate : s.cfr.active = false) (hmf : s.mf = .passThrough) (hxs : xs.length = nSmp s)
    (hd : s.din = wordsOf xs ++ rest) (ht : xs.foldl synSample { s with din := rest } = t) :
    ∃ u v, exec .cfrSync s = .next u ∧ u.dout = s.dout ++ wordsOf (cfrRotateBlock s.cfr xs).1 ∧
      exec .garSync { u with din := wordsOf (cfrRotateBlock s.cfr xs).1 ++ rest } = .next v ∧
      v.far = t.far ∧ v.gar = t.gar ∧ v.cfr = t.cfr ∧ v.sys = s.sys := by
  obtain ⟨u, hrotate, hu⟩ : ∃ u, exec .cfrSync s = .next u ∧ u = _ := ⟨_, exec_cfrSync_block hp hxs hd, rfl⟩
  obtain ⟨hcfr, hblock⟩ := foldl_synSample_of_gate_closed xs (s := { s with din := rest })
    (u := { u with din := wordsOf (cfrRotateBlock s.cfr xs).1 ++ rest }) hgate hmf (by rw [hu]) (by rw [hu])
    (by rw [hu])
  have hgardner := exec_garSync_block (s := { u with din := wordsOf (cfrRotateBlock s.cfr xs).1 ++ rest })
    (by rw [hu]; exact hp) (by rw [hu, length_cfrRotateBlock]; exact hxs) rfl
  rw [ht] at hcfr hblock
  rw [hblock] at hgardner
  exact ⟨u, _, hrotate, by rw [hu], hgardner, rfl, rfl, by rw [hu, hcfr], by rw [hu]⟩

end Sys2Proof.Machine

open Sys2Proof Sys2Proof.Machine

/-- Settles O43: block `p` is the indices whose distance from 1530 has quotient `p` and a remainder below 36. -/
theorem pilotZoneIsPilotBlocks : Obligations.PilotZoneIsPilotBlocks :=
  ⟨pilotZone_iff, pilotZone_iff_exists_block, fun _ _ hn hi => pilotZone_of_lt (hi.trans_le hn)⟩

/-- Settles O45: the three operations complete one after another, and leave the elements of `synSample_eq`. -/
theorem synSampleIsSeparateOperations : Obligations.SynSampleIsSeparateOperations := by
  intro s x rest hp hd
  obtain ⟨a, hrotate, ha⟩ : ∃ a, exec .cfrStep s = .next a ∧ a = _ := ⟨_, exec_cfrStep hp hd, rfl⟩
  have hpa : a.sys.phase = .run := by rw [ha]; exact hp
  obtain ⟨b, hgardner, hb⟩ : ∃ b, exec .garStep
      { a with din := (synFiltered s x).2.re :: (synFiltered s x).2.im :: rest } = .next b ∧ b = _ :=
    ⟨_, exec_garStep hpa rfl, rfl⟩
  have hpb : b.sys.phase = .run := by rw [hb]; exact hpa
  obtain ⟨c, hupd, hfar, hgar, hcfr⟩ := exec_cfrUpd_if hpb
    (s.gar.isStrobe = true ∧ pilotZone s.syn.symIdx = true) (garStep s (synFiltered s x).2).y rest
  refine ⟨a, cfrRotated s.cfr x, b, (garStep s (synFiltered s x).2).y, c, hrotate, by rw [ha]; rfl, hgardner,
    by rw [hb, ha]; rfl, hupd, ?_⟩
  rw [synSample_eq, hfar, hgar, hcfr, hb, ha]
  rfl

/-- Settles O46: by `exec_passes_of_gate_closed` the ring is the same before the one drain of both. -/
theorem synSyncIsSeparatePasses : Obligations.SynSyncIsSeparatePasses := by
  intro s xs rest hp hgate hmf hxs hd
  obtain ⟨t, ht⟩ : ∃ t, xs.foldl synSample { s with din := rest } = t := ⟨_, rfl⟩
  obtain ⟨u, v, hrotate, hu, hgardner, hfar, hgar, hcfr, hsys⟩ := exec_passes_of_gate_closed hp hgate hmf hxs hd ht
  have hn : nSym v = nSym s := by rw [nSym, hsys, nSym]
  have hextract := exec_garExtract (s := v) (by rw [hsys]; exact hp)
  rw [hn, hgar] at hextract
  refine ⟨_, u, v, _, (cfrRotateBlock s.cfr xs).1, wordsOf (drained (nSym s) t.gar.oring),
    boolWord (underflowed (nSym s) t.gar.oring), exec_synSync hp hxs hd ht, hrotate, hu, hgardner, hextract, ?_⟩
  simp only [finish_gar, finish_far, finish_cfr, finish_dout, hfar, hcfr, length_wordsOf, length_drained,
    List.append_assoc, true_and, and_true]
  rfl

/-- Settles O44: the drain with and without the underflow. -/
theorem synSyncResult : Obligations.SynSyncResult := by
  intro s xs rest hp hxs hd
  rw [exec_synSync hp hxs hd rfl]
  refine ⟨fun hle => ?_, fun hlt => ?_⟩
  · rw [underflowed_eq_false hle, garDrain_of_le hle, drainStatus_of_le hle, drained_of_le hle, ← List.append_assoc]
    rfl
  · rw [underflowed_eq_true hlt, garDrain_of_lt hlt, drainStatus_of_lt hlt, wordsOf_drained_of_lt hlt,
      ← List.append_assoc, ← List.append_assoc]
    rfl

/-- Settles O47: the operation runs and takes nothing from `DIN`. -/
theorem synResetResult : Obligations.SynResetResult := by
  intro s hp
  change execSynReset s = _
  rw [execSynReset, runOp_runs (by rw [hp]; rfl) (Nat.zero_le _)]
  rfl
end

/-! PROOFS. Construction, global reset and loop design (45_system_ops.md R236 to R240): the two tests of `SYS.BUILD`
clause by clause, `SYS.RESET` as the resets of SYN and FRM, and the numbers that `lf_design` starts from. -/
section
namespace Sys2Proof.Machine

/-! The operations that take nothing from `DIN` -/

theorem exec_sysBuild {s : State} (hp : s.sys.phase = .config) :
    exec .sysBuild s = .next (if buildOk s then finish .ok (built s) else takeFault .configError s) := by
  change execSysBuild s = _
  rw [execSysBuild, runOp_runs (by rw [hp]; rfl) (Nat.zero_le _)]

theorem exec_sysReset {s : State} (hp : s.sys.phase = .run) :
    exec .sysReset s = .next (finish .ok (sysReset s)) := by
  change execSysReset s = _
  rw [execSysReset, runOp_runs (by rw [hp]; rfl) (Nat.zero_le _)]

/-- 45_system_ops.md R240: the global reset is the reset of SYN and then that of FRM. -/
theorem sysReset_eq (s : State) : sysReset s = frmReset (synReset s) := rfl

/-! The two tests of `SYS.BUILD` -/

theorem designOk_iff (zeta kd : Real32) :
    designOk zeta kd = true ↔ rGt zeta rZero = true ∧ isNaN kd = false ∧ isZero kd = false := by
  simp only [designOk, Bool.and_eq_true, Bool.not_eq_true', and_assoc]

/-- 45_system_ops.md R237, clause by clause. -/
theorem validConfig_iff (y : Sys) :
    validConfig y = true ↔
      (2 ≤ y.osf.toInt ∧ y.osf.toInt ≤ 32) ∧ 1 ≤ y.nsym.toInt ∧ y.nsym.toInt ≤ y.oringCap.toInt ∧
      (0 ≤ y.gainmode.toInt ∧ y.gainmode.toInt ≤ 3) ∧
      (garDirect y = false → rGt y.garZeta rZero = true ∧ isNaN y.garKd = false ∧ isZero y.garKd = false) ∧
      (cfrDirect y = false → rGt y.cfrZeta rZero = true ∧ isNaN y.cfrKd = false ∧ isZero y.cfrKd = false) := by
  simp only [validConfig, Bool.and_eq_true, decide_eq_true_eq, Bool.or_eq_true, or_iff_not_imp_left, Bool.not_eq_true,
    designOk_iff, and_assoc]

/-- Both tests of 45_system_ops.md R236: a valid configuration, and four finite gains. -/
theorem buildOk_iff (s : State) :
    buildOk s = true ↔
      validConfig s.sys = true ∧ (isFinite (garGains s).kp = true ∧ isFinite (garGains s).ki = true) ∧
      isFinite (cfrGains s).kp = true ∧ isFinite (cfrGains s).ki = true := by
  simp only [buildOk, gainsFinite, Bool.and_eq_true, and_assoc]

/-! The values of the constants and of `toR` -/

theorem valueOf_of_units {x : Real32} {i : Int} (h : units x = i) : valueOf x = i / 2 ^ 149 := by
  rw [valueOf, h]

/-- A number of 24 bits is exact in `R`. -/
theorem hasValue_toR {n : Nat} (hn : n < 2 ^ 24) : HasValue (toR n) n := by
  obtain ⟨hfin, hmag⟩ := roundRatio_exact false hn (j := 149) (by decide)
  have hunits : units (toR n) = n * 2 ^ 149 := by
    rw [units, toR, signBit_roundRatio, hmag]
    push_cast
    rfl
  refine ⟨hfin, ?_⟩
  rw [valueOf_of_units hunits, Int.cast_mul, Int.cast_natCast, Int.cast_pow, Int.cast_ofNat, mul_div_cancel_right₀]
  positivity

end Sys2Proof.Machine

open Sys2Proof Sys2Proof.Machine

/-- Settles O48: every clause of R237 and the four gains are hypotheses, and `built` is the state written out. -/
theorem sysBuildResult : Obligations.SysBuildResult := by
  intro s hp hosf hosf' hnsym hring hmode hmode' hgar hcfr n m g c hgkp hgki hckp hcki
  have hvalid : validConfig s.sys = true :=
    (validConfig_iff s.sys).2 ⟨⟨hosf, hosf'⟩, hnsym, hring, ⟨hmode, hmode'⟩, hgar, hcfr⟩
  have hok : buildOk s = true := (buildOk_iff s).2 ⟨hvalid, ⟨hgkp, hgki⟩, hckp, hcki⟩
  rw [exec_sysBuild hp, if_pos hok]
  rfl

/-- Settles O49: each way to fail contradicts one clause of `validConfig_iff` or one gain of `buildOk_iff`. -/
theorem sysBuildRejects : Obligations.SysBuildRejects := by
  intro s hp n g c hbroken
  have hfail : ¬buildOk s = true := by
    rw [buildOk_iff, validConfig_iff]
    rintro ⟨⟨hosf, hnsym, hring, hmode, hgar, hcfr⟩, ⟨hgkp, hgki⟩, hckp, hcki⟩
    rcases hbroken with h | h | h | h | ⟨hd, h⟩ | ⟨hd, h⟩ | h | h | h | h
    · exact h hosf
    · exact h hnsym
    · exact h hring
    · exact h hmode
    · exact h (hgar hd)
    · exact h (hcfr hd)
    · exact ne_true_of_eq_false h hgkp
    · exact ne_true_of_eq_false h hgki
    · exact ne_true_of_eq_false h hckp
    · exact ne_true_of_eq_false h hcki
  rw [exec_sysBuild hp, if_neg hfail]
  rfl

/-- Settles O50: the state of the two resets is `sysReset` by `sysReset_eq`, and `STAT` is set to one status. -/
theorem sysResetResult : Obligations.SysResetResult := by
  intro s hp
  refine ⟨_, _, synResetResult s hp, frmResetResult _ hp, ?_, rfl, rfl, rfl, rfl, rfl, rfl, rfl, rfl, rfl, rfl, rfl, rfl,
    rfl, rfl, rfl, rfl⟩
  rw [exec_sysReset hp, sysReset_eq]
  rfl

/-- Settles O60: the equations are the definition of `lfDesign`; the numbers are exact by `hasValue_toR` and
`valueOf_of_units`. -/
theorem loopDesignEquations : Obligations.LoopDesignEquations := by
  refine ⟨fun zeta bn kd n k0 => rfl, fun n _ hn => hasValue_toR (by omega), ?_, hasValue_one.2, ?_, ?_, ?_⟩
  · exact (valueOf_of_units (i := 2 ^ 147) (by decide)).trans (by norm_num)
  · exact (hasValue_toR (n := 2) (by decide)).2
  · exact (hasValue_toR (n := 4) (by decide)).2
  · exact (hasValue_rNeg hasValue_one).2
end

/-! PROOFS. Access to the registers (45_system_ops.md R242, R244; 10_state.md R50): the checks of `CFG.WR`, what a
register reads after a write to it and to another one, and `CFG.RD` row by row. -/
section
namespace Sys2Proof.Machine

/-! The operations -/

theorem takeFault_badAccess (s : State) :
    takeFault .badAccess s = { s with
      sys := { s.sys with faultLast := .badAccess, faultMask := s.sys.faultMask ||| 0b10000#5 }
      stat := s.stat ++ [.badAccess] } := rfl

theorem exec_cfgRd {s : State} {a : Nat} {r : CfgReg} (h : cfgRegAt a = some r) :
    exec (.cfgRd a) s = .next { s with dout := s.dout ++ [cfgRead r s], stat := s.stat ++ [.ok] } := by
  change execCfgRd a s = _
  rw [execCfgRd, runOp_runs rfl (Nat.zero_le _), h]
  rfl

theorem exec_cfgRd_unmapped {s : State} {a : Nat} (h : cfgRegAt a = none) :
    exec (.cfgRd a) s = .next (takeFault .badAccess s) := by
  change execCfgRd a s = _
  rw [execCfgRd, runOp_runs rfl (Nat.zero_le _), h]

/-- Reading the rows of a table of registers. -/
theorem exec_cfgRd_rows {rows : List (Nat × CfgReg)} (h : ∀ p ∈ rows, cfgRegAt p.1 = some p.2) (s : State) :
    ∀ p ∈ rows.map fun p => (p.1, cfgRead p.2 s),
      exec (.cfgRd p.1) s = .next { s with dout := s.dout ++ [p.2], stat := s.stat ++ [.ok] } :=
  List.forall_mem_map.2 fun p hp => exec_cfgRd (h p hp)

theorem exec_cfgWr {s : State} {a : Nat} {v : Word} {rest : List Word} (hp : s.sys.phase ≠ .failed)
    (hd : s.din = v :: rest) : exec (.cfgWr a) s = .next (writeReg a v { s with din := rest }) := by
  have hperm : permittedIn (.cfgWr a) s.sys.phase = true := by
    cases h : s.sys.phase
    case failed => exact absurd h hp
    all_goals rfl
  change execCfgWr a s = _
  rw [execCfgWr, runOp_runs hperm (by simp [dinWords, hd]), popWord_of_din hd]

/-! The checks of `CFG.WR` -/

theorem not_cfgWritable_ro {r : CfgReg} (h : cfgAccess r = .ro) (p : Phase) : ¬cfgWritable r p = true := by
  simp [cfgWritable, h]

theorem cfgWritable_rwc_iff {r : CfgReg} (h : cfgAccess r = .rwc) (p : Phase) :
    cfgWritable r p = true ↔ p = .config := by
  simp only [cfgWritable, h, beq_iff_eq]

/-- Only the `rw` registers look at the value. -/
theorem cfgValueOk_rwc {r : CfgReg} (h : cfgAccess r = .rwc) (v : Word) (s : State) : cfgValueOk r v s = true := by
  cases r
  case cfrActive | synSymIdx => cases h
  all_goals rfl

theorem cfgValueOk_cfrActive_iff (v : Word) (s : State) :
    cfgValueOk .cfrActive v s = true ↔ v = 0#32 ∨ v = 1#32 := by
  simp only [cfgValueOk, Bool.or_eq_true, beq_iff_eq]

theorem cfgValueOk_symIdx_run {s : State} (hp : s.sys.phase = .run) (v : Word) :
    cfgValueOk .synSymIdx v s = true ↔ 0 ≤ v.toInt ∧ v.toInt < nSym s := by
  simp only [cfgValueOk, hp, Bool.and_eq_true, decide_eq_true_eq, if_true]

theorem cfgValueOk_symIdx_idle {s : State} (hp : s.sys.phase ≠ .run) (v : Word) :
    cfgValueOk .synSymIdx v s = true ↔ v = 0#32 := by
  simp only [cfgValueOk, hp, Bool.and_eq_true, decide_eq_true_eq, if_false, beq_iff_eq, and_iff_right_iff_imp]
  rintro rfl
  decide

/-- Each form of a write that 45_system_ops.md R242 lets through passes both checks. -/
theorem checks_of_accepted {s : State} {r : CfgReg} {v : Word}
    (h : (cfgAccess r = .rwc ∧ s.sys.phase = .config) ∨
      (r = .cfrActive ∧ s.sys.phase ≠ .failed ∧ (v = 0#32 ∨ v = 1#32)) ∨
      (r = .synSymIdx ∧ s.sys.phase = .run ∧ 0 ≤ v.toInt ∧ v.toInt < nSym s) ∨
      (r = .synSymIdx ∧ s.sys.phase = .config ∧ v = 0#32)) :
    s.sys.phase ≠ .failed ∧ cfgWritable r s.sys.phase = true ∧ cfgValueOk r v s = true := by
  rcases h with ⟨hacc, hp⟩ | ⟨rfl, hp, hv⟩ | ⟨rfl, hp, hv⟩ | ⟨rfl, hp, hv⟩
  · exact ⟨by rw [hp]; nofun, (cfgWritable_rwc_iff hacc _).2 hp, cfgValueOk_rwc hacc v s⟩
  · exact ⟨hp, rfl, (cfgValueOk_cfrActive_iff v s).2 hv⟩
  · exact ⟨by rw [hp]; nofun, rfl, (cfgValueOk_symIdx_run hp v).2 hv⟩
  · exact ⟨by rw [hp]; nofun, rfl, (cfgValueOk_symIdx_idle (by rw [hp]; nofun) v).2 hv⟩

theorem writeReg_accepted {s : State} {a : Nat} {r : CfgReg} {v : Word} (h : cfgRegAt a = some r)
    (hw : cfgWritable r s.sys.phase = true) (hv : cfgValueOk r v s = true) :
    writeReg a v s = pushStat .ok (cfgWrite r v s) := by
  simp only [writeReg, h, hw, hv, Bool.and_self, if_true, finish_ok]

theorem writeReg_unmapped {s : State} {a : Nat} (h : cfgRegAt a = none) (v : Word) :
    writeReg a v s = takeFault .badAccess s := by
  simp only [writeReg, h]

theorem writeReg_refused {s : State} {a : Nat} {r : CfgReg} {v : Word} (h : cfgRegAt a = some r)
    (hno : cfgWritable r s.sys.phase = true → cfgValueOk r v s = true → False) :
    writeReg a v s = takeFault .badAccess s := by
  have hcheck : ¬(cfgWritable r s.sys.phase && cfgValueOk r v s) = true := fun hok =>
    hno (Bool.and_eq_true_iff.1 hok).1 (Bool.and_eq_true_iff.1 hok).2
  simp only [writeReg, h, if_neg hcheck]

/-! What a register reads -/

/-- The registers read the units, not the ports. -/
theorem cfgRead_of_units_eq {s u : State} (hfar : u.far = s.far) (hgar : u.gar = s.gar) (hcfr : u.cfr = s.cfr)
    (hfrm : u.frm = s.frm) (hsyn : u.syn = s.syn) (hsys : u.sys = s.sys) (q : CfgReg) :
    cfgRead q u = cfgRead q s := by
  obtain ⟨far, gar, cfr, frm, syn, sys, _, _, _, _, _, _⟩ := u
  subst hfar hgar hcfr hfrm hsyn hsys
  cases q <;> rfl

theorem cfgRead_pushStat (q : CfgReg) (st : Status) (s : State) : cfgRead q (pushStat st s) = cfgRead q s :=
  cfgRead_of_units_eq rfl rfl rfl rfl rfl rfl q

/-! One part of one symbol of a reference -/

section references
variable {zs : List C} {k j : Nat}

theorem getD_modify_same {f : C → C} (hk : k < zs.length) : (zs.modify k f).getD k C0 = f (zs.getD k C0) := by
  simp [List.getD_eq_getElem?_getD, hk]

theorem getD_modify_ne {f : C → C} (h : k ≠ j) : (zs.modify k f).getD j C0 = zs.getD j C0 := by
  simp [List.getD_eq_getElem?_getD, h]

/-- A part that the change of an entry leaves is left in every entry. -/
theorem getD_modify_part {f : C → C} {part : C → Real32} (h : ∀ z, part (f z) = part z) :
    part ((zs.modify k f).getD j C0) = part (zs.getD j C0) := by
  by_cases hkj : k = j
  · subst hkj
    by_cases hk : k < zs.length
    · rw [getD_modify_same hk, h]
    · rw [List.modify_eq_self (Nat.le_of_not_lt hk)]
  · rw [getD_modify_ne hkj]

variable (v : Real32)

theorem re_getD_setRe (hk : k < zs.length) : ((setRe zs k v).getD k C0).re = v := by
  rw [setRe, getD_modify_same hk]

theorem im_getD_setIm (hk : k < zs.length) : ((setIm zs k v).getD k C0).im = v := by
  rw [setIm, getD_modify_same hk]

theorem getD_setRe_ne (h : k ≠ j) : (setRe zs k v).getD j C0 = zs.getD j C0 := getD_modify_ne h

theorem getD_setIm_ne (h : k ≠ j) : (setIm zs k v).getD j C0 = zs.getD j C0 := getD_modify_ne h

theorem im_getD_setRe : ((setRe zs k v).getD j C0).im = (zs.getD j C0).im := getD_modify_part fun _ => rfl

theorem re_getD_setIm : ((setIm zs k v).getD j C0).re = (zs.getD j C0).re := getD_modify_part fun _ => rfl

end references

/-- A reference register names a symbol that its reference has. -/
def IndexInReference : CfgReg → Prop
  | .refSofRe k | .refSofIm k => k < sofLen
  | .refPlscRe k | .refPlscIm k => k < plscLen
  | _ => True

theorem indexInReference_of_cfgRegAt {a : Nat} {r : CfgReg} (h : cfgRegAt a = some r) : IndexInReference r := by
  unfold cfgRegAt at h
  split at h
  case h_48 =>
    split_ifs at h <;> cases h <;> simp only [IndexInReference, sofLen, plscLen] <;> omega
  all_goals cases h; trivial

theorem ofNat_natOfInt32 {v : Word} (h : 0 ≤ v.toInt) : BitVec.ofNat 32 (natOfInt32 v) = v := by
  rw [natOfInt32, ← BitVec.ofInt_natCast, Int.toNat_of_nonneg h, BitVec.ofInt_toInt]

theorem boolWord_beq_one {v : Word} (h : v = 0#32 ∨ v = 1#32) : boolWord (v == 1#32) = v := by
  rcases h with rfl | rfl <;> rfl

/-- A register reads as the value that a permitted write gave it. -/
theorem cfgRead_cfgWrite_same {s : State} {r : CfgReg} {v : Word} (hfix : FixedShape s) (hr : IndexInReference r)
    (hw : cfgWritable r s.sys.phase = true) (hv : cfgValueOk r v s = true) : cfgRead r (cfgWrite r v s) = v := by
  cases r
  case cfrActive => exact boolWord_beq_one ((cfgValueOk_cfrActive_iff v s).1 hv)
  case synSymIdx =>
    simp only [cfgValueOk, Bool.and_eq_true, decide_eq_true_eq] at hv
    exact ofNat_natOfInt32 hv.1
  case refSofRe k => exact re_getD_setRe v (lt_of_lt_of_eq hr hfix.refSof.symm)
  case refSofIm k => exact im_getD_setIm v (lt_of_lt_of_eq hr hfix.refSof.symm)
  case refPlscRe k => exact re_getD_setRe v (lt_of_lt_of_eq hr hfix.refPlsc.symm)
  case refPlscIm k => exact im_getD_setIm v (lt_of_lt_of_eq hr hfix.refPlsc.symm)
  any_goals rfl
  all_goals cases hw

/-- No two registers share a state element: of the references, not even the two parts of one symbol. -/
theorem cfgRead_cfgWrite_ne {q r : CfgReg} (h : q ≠ r) (v : Word) (s : State) :
    cfgRead q (cfgWrite r v s) = cfgRead q s := by
  cases r
  case refSofRe k =>
    cases q
    case refSofRe j => exact congrArg C.re (getD_setRe_ne v fun e => h (by rw [e]))
    case refSofIm j => exact im_getD_setRe v
    all_goals rfl
  case refSofIm k =>
    cases q
    case refSofRe j => exact re_getD_setIm v
    case refSofIm j => exact congrArg C.im (getD_setIm_ne v fun e => h (by rw [e]))
    all_goals rfl
  case refPlscRe k =>
    cases q
    case refPlscRe j => exact congrArg C.re (getD_setRe_ne v fun e => h (by rw [e]))
    case refPlscIm j => exact im_getD_setRe v
    all_goals rfl
  case refPlscIm k =>
    cases q
    case refPlscRe j => exact re_getD_setIm v
    case refPlscIm j => exact congrArg C.im (getD_setIm_ne v fun e => h (by rw [e]))
    all_goals rfl
  all_goals cases q
  any_goals rfl
  all_goals exact absurd rfl h

/-! What a write leaves -/

/-- A register write reaches no port. -/
theorem cfgWrite_ports (r : CfgReg) (v : Word) (s : State) :
    (cfgWrite r v s).rst = s.rst ∧ (cfgWrite r v s).cmd = s.cmd ∧ (cfgWrite r v s).dout = s.dout ∧
    (cfgWrite r v s).stat = s.stat ∧ (cfgWrite r v s).mf = s.mf := by
  cases r <;> exact ⟨rfl, rfl, rfl, rfl, rfl⟩

end Sys2Proof.Machine

open Sys2Proof Sys2Proof.Machine

/-- Settles O53: the values of the table are those of `cfgRead` at the rows of `registerAddresses`. -/
theorem cfgRdResult : Obligations.CfgRdResult := by
  intro s
  obtain ⟨-, -, hnamed, -, -⟩ := registerAddresses
  refine ⟨fun a r => exec_cfgRd, fun a => exec_cfgRd_unmapped, ?_, fun k hk => ?_, fun k hk => ?_⟩
  · convert exec_cfgRd_rows hnamed s using 3
    simp only [List.map_cons, List.map_nil, cfgRead]
    cases s.sys.faultLast <;> rfl
  · exact ⟨exec_cfgRd (cfgRegAt_refSof hk).1, exec_cfgRd (cfgRegAt_refSof hk).2⟩
  · exact ⟨exec_cfgRd (cfgRegAt_refPlsc hk).1, exec_cfgRd (cfgRegAt_refPlsc hk).2⟩

/-- Settles O51: the write passes its checks, the register reads back by `cfgRead_cfgWrite_same`, and every other one,
having another address, by `cfgRead_cfgWrite_ne`. -/
theorem cfgWrThenRead : Obligations.CfgWrThenRead := by
  intro s a r v rest hfix ha hd hform
  obtain ⟨hp, hw, hv⟩ := checks_of_accepted hform
  obtain ⟨hfar, hgar, hcfr, hfrm, hphase⟩ := cfgWrite_frame r v { s with din := rest }
  obtain ⟨hrst, hcmd, hdout, hstat, hmf⟩ := cfgWrite_ports r v { s with din := rest }
  have hexec : exec (.cfgWr a) s = .next (pushStat .ok (cfgWrite r v { s with din := rest })) :=
    (exec_cfgWr hp hd).trans (congrArg _ (writeReg_accepted (s := { s with din := rest }) ha hw hv))
  have hsame : cfgRead r (cfgWrite r v { s with din := rest }) = v :=
    cfgRead_cfgWrite_same (s := { s with din := rest }) ⟨hfix.hist, hfix.refSof, hfix.refPlsc⟩
      (indexInReference_of_cfgRegAt ha) hw hv
  have hother (q : CfgReg) (h : q ≠ r) : cfgRead q (cfgWrite r v { s with din := rest }) = cfgRead q s :=
    (cfgRead_cfgWrite_ne h v _).trans (cfgRead_of_units_eq rfl rfl rfl rfl rfl rfl q)
  have hne {b : Nat} {q : CfgReg} (hb : b ≠ a) (hq : cfgRegAt b = some q) : q ≠ r := fun e =>
    hb ((regAddr_of_cfgRegAt hq).symm.trans (e ▸ regAddr_of_cfgRegAt ha))
  exact ⟨_, hexec, cfgWrite_din r v _, hdout, congrArg (· ++ [Status.ok]) hstat, (cfgRead_pushStat r _ _).trans hsame,
    fun b q hb hq => (cfgRead_pushStat q _ _).trans (hother q (hne hb hq)),
    hfar, hgar, hcfr, hfrm, hphase, hmf, hcmd, hrst⟩

/-- Settles O52: each cause contradicts one of the two checks. -/
theorem cfgWrRefused : Obligations.CfgWrRefused := by
  intro s a v rest hp hd hform
  have hfault : writeReg a v { s with din := rest } = takeFault .badAccess { s with din := rest } := by
    rcases hform with hnone | ⟨r, ha, hbad⟩
    · exact writeReg_unmapped hnone v
    · refine writeReg_refused ha fun hw hv => ?_
      rcases hbad with hro | ⟨hrwc, hph⟩ | ⟨rfl, h0, h1⟩ | ⟨rfl, hph, hout⟩ | ⟨rfl, hph, h0⟩
      · exact not_cfgWritable_ro hro _ hw
      · exact hph ((cfgWritable_rwc_iff hrwc _).1 hw)
      · exact ((cfgValueOk_cfrActive_iff v _).1 hv).elim h0 h1
      · exact hout ((cfgValueOk_symIdx_run (s := { s with din := rest }) hph v).1 hv)
      · exact h0 ((cfgValueOk_symIdx_idle (s := { s with din := rest }) (by rw [hph]; nofun) v).1 hv)
  rw [exec_cfgWr hp hd, hfault]
  rfl
end

/-! PROOFS. The counters as read and the rounding of 46_numerics.md R260: what `roundRatio` returns is one of the two
values next to the ratio, the nearer one and the even one at the midpoint, so no finite value is nearer. -/
section
namespace Sys2Proof.Machine

theorem toNat_counterWord (n : Nat) : (counterWord n).toNat = min n (2 ^ 32 - 1) := by
  rw [counterWord, BitVec.toNat_ofNat]
  omega

/-! A magnitude between its neighbours -/

section nearest
variable {K : Type*} [Field K] [LinearOrder K] [IsStrictOrderedRing K]

/-- Of the neighbouring magnitudes `c` and `c + 1` with `x` units between them, `b` is the nearer one, and the even one
where both are equally near. -/
structure RoundsTo (x : K) (c b : Nat) : Prop where
  lower : (magValue c : K) ≤ x
  upper : x ≤ magValue (c + 1)
  nearer : (b = c ∧ 2 * x ≤ magValue c + magValue (c + 1)) ∨
    (b = c + 1 ∧ magValue c + magValue (c + 1) ≤ 2 * x)
  even : 2 * x = magValue c + magValue (c + 1) → b % 2 = 0

theorem magValue_cast_le {c d : Nat} (h : c ≤ d) : (magValue c : K) ≤ magValue d :=
  Nat.cast_le.2 (magValue_strictMono.monotone h)

/-- The error is at most half the distance of the neighbours. -/
theorem RoundsTo.abs_sub_le {x : K} {c b : Nat} (h : RoundsTo x c b) :
    2 * |magValue b - x| ≤ magValue (c + 1) - magValue c := by
  obtain ⟨hlow, hupp, ⟨rfl, hmid⟩ | ⟨rfl, hmid⟩, -⟩ := h
  · rw [abs_of_nonpos (by linarith)]
    linarith
  · rw [abs_of_nonneg (by linarith)]
    linarith

/-- No magnitude is nearer than the rounded one, and one equally near leaves the even one. -/
theorem RoundsTo.nearest {x : K} {c b : Nat} (h : RoundsTo x c b) (d : Nat) :
    |magValue b - x| ≤ |magValue d - x| ∧
      ((magValue d : K) ≠ magValue b → |magValue d - x| = |magValue b - x| → b % 2 = 0) := by
  obtain ⟨hlow, hupp, hnear, heven⟩ := h
  rcases Nat.lt_or_ge c d with hd | hd
  · have hcd : (magValue (c + 1) : K) ≤ magValue d := magValue_cast_le hd
    rw [abs_of_nonneg (a := (magValue d : K) - x) (by linarith)]
    rcases hnear with ⟨rfl, hmid⟩ | ⟨rfl, hmid⟩
    · rw [abs_of_nonpos (by linarith)]
      exact ⟨by linarith, fun _ heq => heven (by linarith)⟩
    · rw [abs_of_nonneg (by linarith)]
      exact ⟨by linarith, fun hne heq => absurd (by linarith) hne⟩
  · have hdc : (magValue d : K) ≤ magValue c := magValue_cast_le hd
    rw [abs_of_nonpos (a := (magValue d : K) - x) (by linarith)]
    rcases hnear with ⟨rfl, hmid⟩ | ⟨rfl, hmid⟩
    · rw [abs_of_nonpos (by linarith)]
      exact ⟨by linarith, fun hne heq => absurd (by linarith) hne⟩
    · rw [abs_of_nonneg (by linarith)]
      exact ⟨by linarith, fun _ heq => heven (by linarith)⟩

/-! What `roundRatio` returns -/

/-- The magnitude bits of the greatest value not above `num / den` units. -/
def truncBits (num den : Nat) : Nat :=
  ulpExp (num / den) * 2 ^ 23 + num / (den * 2 ^ ulpExp (num / den))

/-- The spacing of the values next to `num / den` units, and what truncation leaves. -/
theorem magValue_truncBits (num den : Nat) :
    magValue (truncBits num den) * den + num % (den * 2 ^ ulpExp (num / den)) = num ∧
    magValue (truncBits num den + 1) = magValue (truncBits num den) + 2 ^ ulpExp (num / den) := by
  have hm := div_ulp_lt (num / den)
  have hk := ulpExp_eq_zero_or_le_div_ulp (num / den)
  rw [Nat.div_div_eq_div_mul] at hm hk
  rw [truncBits, magValue_add hm.le hk, Nat.add_assoc, magValue_add (by omega) (by omega), Nat.succ_mul]
  refine ⟨?_, rfl⟩
  rw [Nat.mul_assoc, Nat.mul_comm (2 ^ _) den, Nat.div_add_mod']

/-- The bits before the clamp at infinity are the truncated ones or the next. -/
theorem roundRatio_roundsTo (neg : Bool) (num : Nat) {den : Nat} (hd : 0 < den) :
    ∃ b, RoundsTo ((num : K) / den) (truncBits num den) b ∧
      magBits (roundRatio neg num den) = min b infBits := by
  unfold roundRatio
  dsimp only
  rw [magBits_packBits neg (Nat.lt_of_le_of_lt (Nat.min_le_right _ _) (by decide))]
  refine ⟨_, ?_, rfl⟩
  obtain ⟨hsplit, hgap⟩ := magValue_truncBits num den
  have hrem : num % (den * 2 ^ ulpExp (num / den)) < den * 2 ^ ulpExp (num / den) :=
    Nat.mod_lt num (Nat.mul_pos hd (Nat.two_pow_pos _))
  have hnext := congrArg (· * den) hgap
  simp only [Nat.add_mul, Nat.mul_comm (2 ^ _) den] at hnext
  have hbits : truncBits num den = ulpExp (num / den) * 2 ^ 23 + num / (den * 2 ^ ulpExp (num / den)) := rfl
  generalize truncBits num den = c at *
  have hden : (0 : K) < den := Nat.cast_pos.2 hd
  have hmidl : 2 * ((num : K) / den) ≤ magValue c + magValue (c + 1) ↔
      2 * num ≤ (magValue c + magValue (c + 1)) * den := by
    rw [← mul_div_assoc, div_le_iff₀ hden]
    exact_mod_cast Iff.rfl
  have hmidr : (magValue c : K) + magValue (c + 1) ≤ 2 * (num / den) ↔
      (magValue c + magValue (c + 1)) * den ≤ 2 * num := by
    rw [← mul_div_assoc, le_div_iff₀ hden]
    exact_mod_cast Iff.rfl
  constructor
  case lower =>
    rw [le_div_iff₀ hden]
    exact_mod_cast (by omega : magValue c * den ≤ num)
  case upper =>
    rw [div_le_iff₀ hden]
    exact_mod_cast (by omega : num ≤ magValue (c + 1) * den)
  case nearer =>
    rw [hmidl, hmidr, Nat.add_mul]
    split <;> omega
  case even =>
    rw [le_antisymm_iff, hmidl, hmidr, Nat.add_mul]
    split <;> omega

/-- Where the result is finite, nothing was clamped. -/
theorem roundRatio_roundsTo_of_finite {neg : Bool} {num den : Nat} (hd : 0 < den)
    (hf : isFinite (roundRatio neg num den) = true) :
    RoundsTo ((num : K) / den) (truncBits num den) (magBits (roundRatio neg num den)) := by
  obtain ⟨b, hb, hbits⟩ := roundRatio_roundsTo (K := K) neg num hd
  have hlt : magBits (roundRatio neg num den) < infBits := of_decide_eq_true hf
  rwa [show magBits (roundRatio neg num den) = b by omega]

/-! Values with a sign -/

theorem abs_valueOf (y : Real32) : |((valueOf y : ℚ) : K)| * 2 ^ 149 = magValue (magBits y) := by
  have hpow : (0 : K) < 2 ^ 149 := by positivity
  rw [← magUnits_eq_magValue, ← natAbs_units, Nat.cast_natAbs, valueOf]
  push_cast
  rw [abs_div, abs_of_pos hpow, div_mul_cancel₀ _ hpow.ne']

theorem valueOf_nonneg {y : Real32} (h : signBit y = false) : 0 ≤ valueOf y := by
  rw [valueOf, units, h, if_neg (by decide)]
  positivity

theorem valueOf_nonpos {y : Real32} (h : signBit y = true) : valueOf y ≤ 0 := by
  rw [valueOf, units, if_pos h, Int.cast_neg, neg_div, neg_nonpos]
  positivity

/-- No value is nearer to `x` than `r`, and where another one is equally near, `r` is even (46_numerics.md R260). -/
def IsNearest (r : Real32) (x : K) : Prop :=
  ∀ y : Real32, |((valueOf r : ℚ) : K) - x| ≤ |((valueOf y : ℚ) : K) - x| ∧
    (valueOf y ≠ valueOf r → |((valueOf y : ℚ) : K) - x| = |((valueOf r : ℚ) : K) - x| → r.toNat % 2 = 0)

/-- `x` has the sign of `r`, or is zero. -/
def SignOf (r : Real32) (x : K) : Prop := if signBit r then x ≤ 0 else 0 ≤ x

theorem SignOf.abs_sub {r : Real32} {x : K} (h : SignOf r x) :
    |((valueOf r : ℚ) : K) - x| = |(|((valueOf r : ℚ) : K)| - |x|)| := by
  unfold SignOf at h
  split at h
  next hs =>
    have hr : ((valueOf r : ℚ) : K) ≤ 0 := by exact_mod_cast valueOf_nonpos hs
    rw [abs_of_nonpos hr, abs_of_nonpos h, ← abs_neg]
    congr 1
    ring
  next hs =>
    have hr : (0 : K) ≤ ((valueOf r : ℚ) : K) := by exact_mod_cast valueOf_nonneg (Bool.eq_false_iff.2 hs)
    rw [abs_of_nonneg hr, abs_of_nonneg h]

/-- The rounded magnitude with the sign of `x` is nearest to `x`: a value of the other sign is no nearer than its
negative. -/
theorem isNearest_of_roundsTo {r : Real32} {x : K} {c : Nat} (hs : SignOf r x)
    (h : RoundsTo (|x| * 2 ^ 149) c (magBits r)) : IsNearest r x := by
  have hpow : (0 : K) < 2 ^ 149 := by positivity
  have hscale (y : Real32) : |(magValue (magBits y) : K) - |x| * 2 ^ 149| =
      |(|((valueOf y : ℚ) : K)| - |x|)| * 2 ^ 149 := by
    rw [← abs_valueOf, ← sub_mul, abs_mul, abs_of_pos hpow]
  have hle (y : Real32) : |(|((valueOf r : ℚ) : K)| - |x|)| ≤ |(|((valueOf y : ℚ) : K)| - |x|)| := by
    have hnear := (h.nearest (magBits y)).1
    rwa [hscale, hscale, mul_le_mul_iff_left₀ hpow] at hnear
  have hzero (hx : x = 0) : ((valueOf r : ℚ) : K) = 0 := by
    simpa [hx, hasValue_zero.2] using hle rZero
  intro y
  have hmag := abs_abs_sub_abs_le_abs_sub ((valueOf y : ℚ) : K) x
  refine ⟨hs.abs_sub.trans_le ((hle y).trans hmag), fun hne heq => ?_⟩
  have hne : ((valueOf y : ℚ) : K) ≠ (valueOf r : ℚ) := fun h' => hne (Rat.cast_injective h')
  have habs : |((valueOf y : ℚ) : K)| ≠ |((valueOf r : ℚ) : K)| := by
    intro h'
    have hneg : ((valueOf y : ℚ) : K) = -(valueOf r : ℚ) := (abs_eq_abs.1 h').resolve_left hne
    rw [hneg] at heq hne
    rcases abs_eq_abs.1 heq with h0 | h0
    · exact hne (by linarith)
    · exact hne (by rw [hzero (by linarith), neg_zero])
  have htie := (h.nearest (magBits y)).2
  rw [hscale, hscale, mul_left_inj' hpow.ne', ← abs_valueOf, ← abs_valueOf, Ne, mul_left_inj' hpow.ne'] at htie
  have hbits : magBits r % 2 = 0 := htie habs (le_antisymm (hmag.trans (heq.trans hs.abs_sub).le) (hle y))
  rw [magBits] at hbits
  omega

theorem isNearest_of_eq {r : Real32} {x : K} (h : ((valueOf r : ℚ) : K) = x) : IsNearest r x := by
  subst h
  refine fun y => ⟨by rw [sub_self, abs_zero]; exact abs_nonneg _, fun hne heq => absurd ?_ hne⟩
  rw [sub_self, abs_zero, abs_eq_zero, sub_eq_zero] at heq
  exact Rat.cast_injective heq

/-- A rounded ratio of units is nearest to its exact value. -/
theorem isNearest_roundRatio {neg : Bool} {num den : Nat} {x : K} (hd : 0 < den)
    (hf : isFinite (roundRatio neg num den) = true) (hx : x * 2 ^ 149 = (if neg then -1 else 1) * (num / den)) :
    IsNearest (roundRatio neg num den) x := by
  have hpow : (0 : K) < 2 ^ 149 := by positivity
  have hratio : (0 : K) ≤ num / den := by positivity
  have hsign : SignOf (roundRatio neg num den) x := by
    rw [SignOf, signBit_roundRatio]
    cases neg
    · exact nonneg_of_mul_nonneg_left (by simpa [hx] using hratio) hpow
    · exact nonpos_of_mul_nonpos_left (by simpa [hx] using hratio) hpow
  have habs : |x| * 2 ^ 149 = num / den :=
    calc |x| * 2 ^ 149 = |x * 2 ^ 149| := by rw [abs_mul, abs_of_pos hpow]
      _ = num / den := by rw [hx, abs_mul, abs_of_nonneg hratio]; cases neg <;> simp
  refine isNearest_of_roundsTo hsign (c := truncBits num den) ?_
  rw [habs]
  exact roundRatio_roundsTo_of_finite hd hf

end nearest

/-! The four operations on finite values -/

theorem isNearest_rAdd {a b : Real32} (ha : isFinite a = true) (hb : isFinite b = true)
    (hf : isFinite (rAdd a b) = true) : IsNearest (rAdd a b) (valueOf a + valueOf b) := by
  obtain ⟨hna, hia⟩ := not_nan_inf_of_finite ha
  obtain ⟨hnb, hib⟩ := not_nan_inf_of_finite hb
  have hround : rAdd a b = if units a + units b = 0 then (if signBit a ∧ signBit b then rNegZero else rZero)
      else roundRatio (decide (units a + units b < 0)) (units a + units b).natAbs 1 := by
    simp [rAdd, addAs, hna, hia, hnb, hib]
  have hsum : (valueOf a + valueOf b) * 2 ^ 149 = ((units a + units b : Int) : ℚ) := by
    rw [add_mul, ← units_cast (hasValue_of_finite ha), ← units_cast (hasValue_of_finite hb), Int.cast_add]
  generalize units a + units b = u at *
  rw [hround] at hf ⊢
  split at hf
  case isTrue h0 =>
    rw [if_pos h0]
    have hzero : valueOf a + valueOf b = 0 := by simpa [h0] using hsum
    rw [hzero]
    have hnegZero : HasValue (rNeg rZero) (-0) := hasValue_rNeg hasValue_zero
    rw [neg_zero] at hnegZero
    split
    · exact isNearest_of_eq hnegZero.2
    · exact isNearest_of_eq hasValue_zero.2
  case isFalse h0 =>
    rw [if_neg h0]
    refine isNearest_roundRatio Nat.one_pos hf ?_
    rw [hsum, Nat.cast_one, div_one, Nat.cast_natAbs]
    rcases lt_or_ge u 0 with hneg | hpos
    · simp [hneg, abs_of_neg hneg]
    · simp [not_lt.2 hpos, abs_of_nonneg hpos]

/-- The sign of a value as a factor. -/
def signFactor (neg : Bool) : ℚ := if neg then -1 else 1

theorem signFactor_bne (s t : Bool) : signFactor (s != t) = signFactor s * signFactor t := by
  cases s <;> cases t <;> norm_num [signFactor]

theorem signFactor_mul_self (s : Bool) : signFactor s * signFactor s = 1 := by
  cases s <;> norm_num [signFactor]

theorem valueOf_eq_signFactor (x : Real32) : valueOf x = signFactor (signBit x) * magUnits x / 2 ^ 149 := by
  rw [valueOf, units_eq_sign_mul, signFactor]
  push_cast
  rfl

theorem magUnits_pos {x : Real32} (h : isZero x = false) : 0 < magUnits x := by
  rw [magUnits_eq_magValue, ← magValue_zero]
  exact magValue_strictMono (Nat.pos_of_ne_zero (of_decide_eq_false h))

theorem valueOf_of_isZero {v : Real32} (hz : isZero v = true) : valueOf v = 0 := by
  have hmag : magBits v = 0 := of_decide_eq_true hz
  rw [valueOf_eq_signFactor, magUnits_eq_magValue, hmag, magValue_zero, Nat.cast_zero, mul_zero, zero_div]

theorem isNearest_rMul {a b : Real32} (ha : isFinite a = true) (hb : isFinite b = true)
    (hf : isFinite (rMul a b) = true) : IsNearest (rMul a b) (valueOf a * valueOf b) := by
  obtain ⟨hna, hia⟩ := not_nan_inf_of_finite ha
  obtain ⟨hnb, hib⟩ := not_nan_inf_of_finite hb
  have hround : rMul a b = roundRatio (signBit a != signBit b) (magUnits a * magUnits b) (2 ^ 149) := by
    simp [rMul, hna, hia, hnb, hib]
  rw [hround] at hf ⊢
  refine isNearest_roundRatio (Nat.two_pow_pos 149) hf ?_
  change _ = signFactor _ * _
  rw [signFactor_bne, valueOf_eq_signFactor, valueOf_eq_signFactor]
  push_cast
  ring

theorem isNearest_rDiv {a b : Real32} (ha : isFinite a = true) (hb : isFinite b = true) (h0 : isZero b = false)
    (hf : isFinite (rDiv a b) = true) : IsNearest (rDiv a b) (valueOf a / valueOf b) := by
  obtain ⟨hna, hia⟩ := not_nan_inf_of_finite ha
  obtain ⟨hnb, hib⟩ := not_nan_inf_of_finite hb
  have hround : rDiv a b = roundRatio (signBit a != signBit b) (magUnits a * 2 ^ 149) (magUnits b) := by
    simp [rDiv, hna, hia, hnb, hib, h0]
  have hpos : 0 < magUnits b := magUnits_pos h0
  rw [hround] at hf ⊢
  refine isNearest_roundRatio hpos hf ?_
  change _ = signFactor _ * _
  have hsq := signFactor_mul_self (signBit b)
  have hs : signFactor (signBit b) ≠ 0 := left_ne_zero_of_mul_eq_one hsq
  have hm : (magUnits b : ℚ) ≠ 0 := by positivity
  rw [signFactor_bne, valueOf_eq_signFactor, valueOf_eq_signFactor]
  push_cast
  field_simp
  linear_combination (-(signFactor (signBit a)) * magUnits a * 2 ^ 149) * hsq

theorem isNearest_rSub {a b : Real32} (ha : isFinite a = true) (hb : isFinite b = true)
    (hf : isFinite (rSub a b) = true) : IsNearest (rSub a b) (valueOf a - valueOf b) := by
  rw [rSub_eq_rAdd_rNeg ha hb] at hf ⊢
  have hsum := isNearest_rAdd ha (isFinite_rNeg b ▸ hb) hf
  rwa [(hasValue_rNeg (hasValue_of_finite hb)).2, ← sub_eq_add_neg] at hsum

end Sys2Proof.Machine

open Sys2Proof.Machine

/-- Settles O55. -/
theorem countersReadSaturated : Obligations.CountersReadSaturated :=
  fun s => ⟨toNat_counterWord s.gar.ovfCnt, toNat_counterWord s.gar.udfCnt⟩

/-- Settles O56: each operation returns its exact result, or the ratio of units that is its exact result rounded. -/
theorem arithmeticIsNearest : Obligations.ArithmeticIsNearest := by
  intro a b r x ha hb hr hop y _
  have hnear : IsNearest r x := by
    rcases hop with ⟨rfl, rfl⟩ | ⟨rfl, rfl⟩ | ⟨rfl, rfl⟩ | ⟨rfl, h0, rfl⟩
    · exact isNearest_rAdd ha hb hr
    · exact isNearest_rSub ha hb hr
    · exact isNearest_rMul ha hb hr
    · exact isNearest_rDiv ha hb h0 hr
  exact hnear y
end

/-! PROOFS. The square root (46_numerics.md R265): `isqrt` is the whole root, and rounding the half above it rounds
every inexact root, because no midpoint of two neighbouring values lies inside the unit interval of the root. -/
section
namespace Sys2Proof.Machine

/-- The bits found so far are those of the root, which lies below the next step. -/
theorem isqrtFrom_eq_sqrt {n : Nat} (bits r : Nat) (hlow : r * r ≤ n) (hupp : n < (r + 2 ^ bits) * (r + 2 ^ bits)) :
    isqrtFrom n bits r = Nat.sqrt n := by
  induction bits generalizing r with
  | zero => exact Nat.eq_sqrt.2 ⟨hlow, hupp⟩
  | succ k ih =>
    rw [isqrtFrom]
    split
    case isTrue h => exact ih _ h (by rwa [Nat.add_assoc, ← Nat.two_mul, ← Nat.pow_succ'])
    case isFalse h => exact ih r hlow (Nat.lt_of_not_le h)

theorem isqrt_eq_sqrt {n : Nat} (h : n < 2 ^ 214 * 2 ^ 214) : isqrt n = Nat.sqrt n :=
  isqrtFrom_eq_sqrt 214 0 (Nat.zero_le n) (by rwa [Nat.zero_add])

/-- From 2^24 units on the values are even numbers of units. -/
theorem even_magValue {c : Nat} (h : 2 ^ 24 ≤ c) : magValue c % 2 = 0 := by
  obtain ⟨k, m, rfl, hm, hk⟩ := magBits_split c
  obtain ⟨j, rfl⟩ : ∃ j, k = j + 1 := ⟨k - 1, by omega⟩
  rw [magValue_add hm.le hk, Nat.pow_succ, ← Nat.mul_assoc, Nat.mul_mod_left]

/-- Large enough, a number strictly between two whole ones rounds as the half between them does: the midpoint of its
neighbours is a whole number `t`. -/
theorem RoundsTo.of_half {q c b : Nat} {x : ℝ} (h : RoundsTo (((2 * q + 1 : Nat) : ℝ) / (2 : Nat)) c b)
    (hq : 2 ^ 24 ≤ q) (hlow : (q : ℝ) < x) (hupp : x < (q + 1 : Nat)) : RoundsTo x c b := by
  have hhalf : 2 * (((2 * q + 1 : Nat) : ℝ) / (2 : Nat)) = (2 * q + 1 : Nat) := by push_cast; ring
  obtain ⟨hl, hu, hnear, -⟩ := h
  rw [hhalf] at hnear
  rw [div_le_iff₀ (by norm_num)] at hu
  rw [le_div_iff₀ (by norm_num)] at hl
  norm_cast at hl hu hnear
  have hc : 2 ^ 24 ≤ c := by
    by_contra hlt
    have hmono : magValue (c + 1) ≤ magValue (2 ^ 24) := magValue_strictMono.monotone (by omega)
    have hvalue : magValue (2 ^ 24) = 2 ^ 24 := by decide
    omega
  have hevenl : magValue c % 2 = 0 := even_magValue hc
  have hevenu : magValue (c + 1) % 2 = 0 := even_magValue (by omega)
  obtain ⟨t, ht⟩ : ∃ t, magValue c + magValue (c + 1) = 2 * t :=
    ⟨(magValue c + magValue (c + 1)) / 2, by omega⟩
  have hmid : (magValue c : ℝ) + magValue (c + 1) = 2 * t := by exact_mod_cast ht
  have hle_of {p : Nat} (hp : p ≤ q) : (p : ℝ) ≤ x := (Nat.cast_le.2 hp).trans hlow.le
  have hge_of {p : Nat} (hp : q + 1 ≤ p) : x ≤ p := hupp.le.trans (Nat.cast_le.2 hp)
  refine ⟨hle_of (by omega), hge_of (by omega), ?_, fun hx => ?_⟩
  · rw [hmid]
    rcases hnear with ⟨hb, h⟩ | ⟨hb, h⟩
    · exact .inl ⟨hb, by linarith [hge_of (p := t) (by omega)]⟩
    · exact .inr ⟨hb, by linarith [hle_of (p := t) (by omega)]⟩
  · obtain rfl : x = t := by linarith
    have := Nat.cast_lt.1 hlow
    have := Nat.cast_lt.1 hupp
    omega

/-- What is handed to `roundRatio` for a root of `n`: twice the root where it is whole, else the odd number above. -/
def halfRoot (n : Nat) : Nat := 2 * Nat.sqrt n + (if Nat.sqrt n * Nat.sqrt n = n then 0 else 1)

/-- The exact root rounds as the half root does. -/
theorem roundsTo_sqrt {n c b : Nat} (hn : 2 ^ 24 * 2 ^ 24 ≤ n)
    (h : RoundsTo (((halfRoot n : Nat) : ℝ) / (2 : Nat)) c b) :
    RoundsTo (√n) c b := by
  unfold halfRoot at h
  split at h
  case isTrue hsq =>
    have hroot : √(n : ℝ) = Nat.sqrt n := by
      rw [Real.sqrt_eq_iff_mul_self_eq (by positivity) (by positivity)]
      exact_mod_cast hsq.symm
    have hhalf : ((2 * Nat.sqrt n + 0 : Nat) : ℝ) / (2 : Nat) = Nat.sqrt n := by push_cast; ring
    rwa [hroot, ← hhalf]
  case isFalse hsq =>
    refine h.of_half (Nat.le_sqrt.2 hn) ?_ ?_
    · refine Real.nat_sqrt_le_real_sqrt.lt_of_ne fun heq => hsq ?_
      have hmul := Real.mul_self_sqrt (Nat.cast_nonneg (α := ℝ) n)
      rw [← heq, ← Nat.cast_mul] at hmul
      exact Nat.cast_injective hmul
    · exact_mod_cast Real.real_sqrt_lt_nat_sqrt_succ

theorem magUnits_mul_lt {x : Real32} (h : isFinite x = true) : magUnits x * 2 ^ 149 < 2 ^ 214 * 2 ^ 214 := by
  obtain ⟨m, j, hmag, hm, hj⟩ := magUnits_split h
  rw [hmag]
  calc m * 2 ^ j * 2 ^ 149 ≤ 2 ^ 24 * 2 ^ 253 * 2 ^ 149 :=
        Nat.mul_le_mul_right _ (Nat.mul_le_mul hm.le (Nat.pow_le_pow_right (by decide) hj))
    _ < 2 ^ 214 * 2 ^ 214 := by decide

/-- The root of a positive finite value is rounded from units of 2^-149. -/
theorem rSqrt_of_pos {v : Real32} (hf : isFinite v = true) (hz : isZero v = false) (hs : signBit v = false) :
    rSqrt v = roundRatio false (halfRoot (magUnits v * 2 ^ 149)) 2 := by
  obtain ⟨hn, hi⟩ := not_nan_inf_of_finite hf
  rw [halfRoot, ← isqrt_eq_sqrt (magUnits_mul_lt hf), rSqrt]
  simp only [hn, hz, hs, hi, Bool.false_eq_true, if_false]

/-- A ratio far below 2^128 stays finite. -/
theorem isFinite_roundRatio (neg : Bool) {num den : Nat} (h : num / den < 2 ^ 214) :
    isFinite (roundRatio neg num den) = true := by
  have hbits := magBits_roundRatio_le neg num den
  have hk : ulpExp (num / den) ≤ 190 := ulpExp_le h
  have hm := div_ulp_lt (num / den)
  rw [Nat.div_div_eq_div_mul] at hm
  refine decide_eq_true (Nat.lt_of_le_of_lt hbits ?_)
  have hinf : infBits = 253 * 2 ^ 23 + 2 ^ 24 := rfl
  omega

theorem halfRoot_div_two (n : Nat) : halfRoot n / 2 = Nat.sqrt n := by
  unfold halfRoot
  split <;> omega

theorem sqrt_valueOf {v : Real32} (hs : signBit v = false) :
    √((valueOf v : ℚ) : ℝ) * 2 ^ 149 = √((magUnits v * 2 ^ 149 : Nat) : ℝ) := by
  have hvalue : ((valueOf v : ℚ) : ℝ) * (2 ^ 149) ^ 2 = (magUnits v * 2 ^ 149 : Nat) := by
    rw [valueOf_eq_signFactor, hs]
    simp only [signFactor]
    push_cast
    ring
  rw [← hvalue, Real.sqrt_mul' _ (by positivity), Real.sqrt_sq (by positivity)]

/-- The root of a positive finite value: the half root is rounded as the exact root is. -/
theorem rSqrt_nearest_of_pos {v : Real32} (hf : isFinite v = true) (hz : isZero v = false) (hs : signBit v = false) :
    isFinite (rSqrt v) = true ∧ IsNearest (rSqrt v) √((valueOf v : ℚ) : ℝ) := by
  have hfin : isFinite (roundRatio false (halfRoot (magUnits v * 2 ^ 149)) 2) = true := by
    refine isFinite_roundRatio false ?_
    rw [halfRoot_div_two]
    exact Nat.sqrt_lt.2 (magUnits_mul_lt hf)
  have hlarge : 2 ^ 24 * 2 ^ 24 ≤ magUnits v * 2 ^ 149 :=
    (Nat.mul_le_mul (magUnits_pos hz) (by decide : 2 ^ 48 ≤ 2 ^ 149)).trans' (by decide)
  rw [rSqrt_of_pos hf hz hs]
  refine ⟨hfin, isNearest_of_roundsTo (c := truncBits (halfRoot (magUnits v * 2 ^ 149)) 2) ?_ ?_⟩
  · rw [SignOf, signBit_roundRatio]
    exact Real.sqrt_nonneg _
  · rw [abs_of_nonneg (Real.sqrt_nonneg _), sqrt_valueOf hs]
    exact roundsTo_sqrt hlarge (roundRatio_roundsTo_of_finite (by decide) hfin)

theorem signBit_of_nonneg {v : Real32} (hz : isZero v = false) (h : 0 ≤ valueOf v) : signBit v = false := by
  rw [Bool.eq_false_iff]
  intro hs
  have hm : (0 : ℚ) < magUnits v := Nat.cast_pos.2 (magUnits_pos hz)
  rw [valueOf_eq_signFactor, hs, signFactor, if_pos rfl, neg_one_mul, neg_div, neg_nonneg] at h
  exact absurd h (not_le.2 (by positivity))

end Sys2Proof.Machine

open Sys2Proof.Machine

/-- Settles O57: a zero is its own root, and any other value is `rSqrt_nearest_of_pos`. -/
theorem squareRootIsNearest : Obligations.SquareRootIsNearest := by
  intro v hf hv
  have hnearest : isFinite (rSqrt v) = true ∧ IsNearest (rSqrt v) √((valueOf v : ℚ) : ℝ) := by
    cases hz : isZero v with
    | false => exact rSqrt_nearest_of_pos hf hz (signBit_of_nonneg hz hv)
    | true =>
      have hroot : rSqrt v = v := by simp [rSqrt, (not_nan_inf_of_finite hf).1, hz]
      rw [hroot]
      refine ⟨hf, isNearest_of_eq ?_⟩
      rw [valueOf_of_isZero hz, Rat.cast_zero, Real.sqrt_zero]
  exact ⟨hnearest.1, fun y _ => (hnearest.2 y).1⟩
end

/-! PROOFS. The sinusoids (46_numerics.md R266, 42_coarse_freq.md R171): the partial sums of the two series enclose the
exact value of a quarter turn, narrowly beside one unit in the last place, so that an admitted pattern and the rounded
lower end both keep the bound. -/
section
namespace Sys2Proof.Machine

/-! The two series -/

theorem antitone_pow_div_factorial {x : ℝ} (h0 : 0 ≤ x) (h1 : x ≤ 1) :
    Antitone fun m : Nat => x ^ m / (m.factorial : ℝ) := fun _ _ hab =>
  div_le_div₀ (pow_nonneg h0 _) (pow_le_pow_of_le_one h0 h1 hab) (by positivity)
    (Nat.cast_le.2 (Nat.factorial_le hab))

theorem sinSeries_cast (x : ℚ) (n : Nat) : ((sinSeries x n : ℚ) : ℝ) =
    ∑ i ∈ Finset.range n, (-1) ^ i * ((x : ℝ) ^ (2 * i + 1) / ((2 * i + 1).factorial : ℝ)) := by
  simp [sinSeries, mul_div_assoc]

theorem cosSeries_cast (x : ℚ) (n : Nat) : ((cosSeries x n : ℚ) : ℝ) =
    ∑ i ∈ Finset.range n, (-1) ^ i * ((x : ℝ) ^ (2 * i) / ((2 * i).factorial : ℝ)) := by
  simp [cosSeries, mul_div_assoc]

section series
variable {x : ℚ} (h0 : (0 : ℝ) ≤ x) (h1 : (x : ℝ) ≤ 1)
include h0 h1

/-- An even number of terms of the sine is below it, an odd number above. -/
theorem sinSeries_bounds (k : Nat) :
    (sinSeries x (2 * k) : ℝ) ≤ Real.sin x ∧ Real.sin x ≤ sinSeries x (2 * k + 1) := by
  have hlim := (Real.hasSum_sin x).tendsto_sum_nat
  simp only [mul_div_assoc] at hlim
  have hanti := (antitone_pow_div_factorial h0 h1).comp_monotone
    (show Monotone fun i : Nat => 2 * i + 1 from fun a b h => by dsimp only; omega)
  rw [sinSeries_cast, sinSeries_cast]
  exact ⟨hanti.alternating_series_le_tendsto hlim k, hanti.tendsto_le_alternating_series hlim k⟩

/-- An even number of terms of the cosine is below it, an odd number above. -/
theorem cosSeries_bounds (k : Nat) :
    (cosSeries x (2 * k) : ℝ) ≤ Real.cos x ∧ Real.cos x ≤ cosSeries x (2 * k + 1) := by
  have hlim := (Real.hasSum_cos x).tendsto_sum_nat
  simp only [mul_div_assoc] at hlim
  have hanti := (antitone_pow_div_factorial h0 h1).comp_monotone
    (show Monotone fun i : Nat => 2 * i from fun a b h => by dsimp only; omega)
  rw [cosSeries_cast, cosSeries_cast]
  exact ⟨hanti.alternating_series_le_tendsto hlim k, hanti.tendsto_le_alternating_series hlim k⟩

/-- What the sixteen terms of the sine leave. -/
theorem sin_sub_sinSeries_le : Real.sin x - sinSeries x 16 ≤ x / 2 ^ 40 := by
  have hupp := (sinSeries_bounds h0 h1 8).2
  rw [sinSeries_cast, Finset.sum_range_succ, ← sinSeries_cast] at hupp
  have hpow : (x : ℝ) ^ 33 ≤ x := by simpa using pow_le_pow_of_le_one h0 h1 (show 1 ≤ 33 by decide)
  have hterm : (x : ℝ) ^ 33 / ((33 : Nat).factorial : ℝ) ≤ x / 2 ^ 40 :=
    div_le_div₀ h0 hpow (by positivity) (by norm_num [Nat.factorial])
  norm_num at hupp hterm ⊢
  linarith

/-- What the sixteen terms of the cosine leave. -/
theorem cos_sub_cosSeries_le : Real.cos x - cosSeries x 16 ≤ 1 / 2 ^ 40 := by
  have hupp := (cosSeries_bounds h0 h1 8).2
  rw [cosSeries_cast, Finset.sum_range_succ, ← cosSeries_cast] at hupp
  have hterm : (x : ℝ) ^ 32 / ((32 : Nat).factorial : ℝ) ≤ 1 / 2 ^ 40 :=
    div_le_div₀ zero_le_one (pow_le_one₀ h0 h1) (by positivity) (by norm_num [Nat.factorial])
  norm_num at hupp hterm ⊢
  linarith

end series

/-! The enclosure of a quarter turn -/

/-- The decimals of pi enclose the angle of an eighth of a turn at most, narrowly. -/
theorem angle_bounds {f : ℚ} (h0 : 0 ≤ f) (h1 : f ≤ 1 / 2) :
    (0 : ℝ) ≤ (piLow * f / 2 : ℚ) ∧ ((piLow * f / 2 : ℚ) : ℝ) ≤ Real.pi * f / 2 ∧
    Real.pi * f / 2 ≤ (piHigh * f / 2 : ℚ) ∧ ((piHigh * f / 2 : ℚ) : ℝ) ≤ 1 ∧
    ((piHigh * f / 2 : ℚ) : ℝ) - (piLow * f / 2 : ℚ) ≤ (piLow * f / 2 : ℚ) / 2 ^ 60 := by
  have hf0 : (0 : ℝ) ≤ f := by exact_mod_cast h0
  have hf1 : (f : ℝ) ≤ 1 / 2 := by simpa using (Rat.cast_le (K := ℝ)).2 h1
  have hlow : ((piLow : ℚ) : ℝ) ≤ Real.pi := by
    have := Real.pi_gt_d20
    norm_num [piLow] at this ⊢
    linarith
  have hhigh : Real.pi ≤ ((piHigh : ℚ) : ℝ) := by
    have := Real.pi_lt_d20
    norm_num [piHigh] at this ⊢
    linarith
  have hl := mul_le_mul_of_nonneg_right hlow hf0
  have hh := mul_le_mul_of_nonneg_right hhigh hf0
  push_cast
  refine ⟨?_, by linarith, by linarith, ?_, ?_⟩ <;> norm_num [piLow, piHigh] <;> linarith

/-- The exact magnitude `y` lies in the enclosure, beside its lower end. -/
structure Encloses (e : Enclosure) (y : ℝ) : Prop where
  low_nonneg : 0 ≤ e.low
  low_le : (e.low : ℝ) ≤ y
  le_high : y ≤ e.high
  narrow : y - e.low ≤ e.low / 2 ^ 25

/-- Up to one half the sine is enclosed by its own series. -/
theorem encloses_sine {f : ℚ} (h0 : 0 ≤ f) (h1 : f ≤ 1 / 2) :
    Encloses { low := sinSeries (piLow * f / 2) 16, high := sinSeries (piHigh * f / 2) 17 }
      (Real.sin (Real.pi * f / 2)) := by
  obtain ⟨hl0, hlow, hhigh, hh1, hgap⟩ := angle_bounds h0 h1
  generalize piLow * f / 2 = l at *
  generalize piHigh * f / 2 = h at *
  generalize Real.pi * f / 2 = θ at *
  have hpi := Real.pi_gt_three
  have hl1 : (l : ℝ) ≤ 1 := by linarith
  have hjordan := Real.mul_le_sin hl0 (by linarith)
  have hslope : (1 / 2 + 1 / 8) * (l : ℝ) ≤ 2 / Real.pi * l := by
    refine mul_le_mul_of_nonneg_right ?_ hl0
    rw [le_div_iff₀ (by linarith)]
    linarith [Real.pi_lt_d2]
  have hrest := sin_sub_sinSeries_le hl0 hl1
  have hmono : Real.sin l ≤ Real.sin θ := Real.sin_le_sin_of_le_of_le_pi_div_two (by linarith) (by linarith) hlow
  have hmono' : Real.sin θ ≤ Real.sin h := Real.sin_le_sin_of_le_of_le_pi_div_two (by linarith) (by linarith) hhigh
  have hlip := (le_abs_self _).trans (Real.abs_sin_sub_sin_le θ l)
  rw [abs_of_nonneg (by linarith)] at hlip
  have hhalf : (l : ℝ) / 2 ≤ sinSeries l 16 := by norm_num at hrest ⊢; linarith
  refine ⟨?_, (sinSeries_bounds hl0 hl1 8).1.trans hmono, hmono'.trans (sinSeries_bounds (by linarith) hh1 8).2, ?_⟩
  · exact_mod_cast (by linarith : (0 : ℝ) ≤ sinSeries l 16)
  · norm_num at hrest hgap ⊢
    linarith

/-- Up to one half the cosine is enclosed by its own series, at the ends of the angle in the other order. -/
theorem encloses_cosine {f : ℚ} (h0 : 0 ≤ f) (h1 : f ≤ 1 / 2) :
    Encloses { low := cosSeries (piHigh * f / 2) 16, high := cosSeries (piLow * f / 2) 17 }
      (Real.cos (Real.pi * f / 2)) := by
  obtain ⟨hl0, hlow, hhigh, hh1, hgap⟩ := angle_bounds h0 h1
  generalize piLow * f / 2 = l at *
  generalize piHigh * f / 2 = h at *
  generalize Real.pi * f / 2 = θ at *
  have hpi := Real.pi_gt_three
  have hh0 : (0 : ℝ) ≤ h := by linarith
  have hsq : 1 - (h : ℝ) ^ 2 / 2 ≤ Real.cos h := Real.one_sub_sq_div_two_le_cos
  have hsq1 : (h : ℝ) ^ 2 ≤ 1 := pow_le_one₀ hh0 hh1
  have hrest := cos_sub_cosSeries_le hh0 hh1
  have hmono : Real.cos h ≤ Real.cos θ := Real.cos_le_cos_of_nonneg_of_le_pi (by linarith) (by linarith) hhigh
  have hmono' : Real.cos θ ≤ Real.cos l := Real.cos_le_cos_of_nonneg_of_le_pi hl0 (by linarith) hlow
  have hlip := (le_abs_self _).trans (Real.abs_cos_sub_cos_le θ h)
  rw [abs_of_nonpos (by linarith)] at hlip
  have hquarter : (1 : ℝ) / 4 ≤ cosSeries h 16 := by norm_num at hrest ⊢; linarith
  refine ⟨?_, (cosSeries_bounds hh0 hh1 8).1.trans hmono, hmono'.trans (cosSeries_bounds hl0 (by linarith) 8).2, ?_⟩
  · exact_mod_cast (by linarith : (0 : ℝ) ≤ cosSeries h 16)
  · norm_num at hrest hgap ⊢
    linarith

/-- What a quarter turn leaves has the cosine for its sine. -/
theorem sin_complement (f : ℚ) : Real.sin (Real.pi * (1 - f : ℚ) / 2) = Real.cos (Real.pi * f / 2) := by
  rw [← Real.sin_pi_div_two_sub]
  congr 1
  push_cast
  ring

theorem sinQuarter_encloses {f : ℚ} (h0 : 0 ≤ f) (h1 : f ≤ 1) :
    Encloses (sinQuarter f) (Real.sin (Real.pi * f / 2)) := by
  unfold sinQuarter
  split
  case isTrue h => exact encloses_sine h0 h
  case isFalse h =>
    have hcompl := sin_complement (1 - f)
    rw [sub_sub_cancel] at hcompl
    rw [hcompl]
    exact encloses_cosine (by linarith) (by linarith)

/-! The phase as quarter turns -/

theorem quarterOf_lt (t : Real32) : quarterOf t < 4 := by
  unfold quarterOf turnUnits
  omega

theorem withinQuarter_bounds (t : Real32) : 0 ≤ withinQuarter t ∧ withinQuarter t ≤ 1 := by
  unfold withinQuarter
  refine ⟨by positivity, ?_⟩
  rw [div_le_one (by positivity)]
  exact_mod_cast (Nat.mod_lt _ (by decide)).le

/-- A phase is a number of whole turns and of quarter turns. -/
theorem valueOf_turn (t : Real32) : ∃ n : Int, valueOf t = n + (quarterOf t + withinQuarter t) / 4 := by
  refine ⟨units t / 2 ^ 149, ?_⟩
  have hturn : units t = 2 ^ 149 * (units t / 2 ^ 149) + turnUnits t := by
    unfold turnUnits
    omega
  have hquarter : 4 * turnUnits t = 2 ^ 149 * quarterOf t + 4 * turnUnits t % 2 ^ 149 := by
    unfold quarterOf
    omega
  have hturn' := congrArg (Int.cast (R := ℚ)) hturn
  have hquarter' := congrArg (Nat.cast (R := ℚ)) hquarter
  rw [Int.cast_add, Int.cast_mul] at hturn'
  rw [Nat.cast_add, Nat.cast_mul, Nat.cast_mul] at hquarter'
  unfold valueOf withinQuarter
  rw [hturn']
  field_simp
  push_cast at hquarter' ⊢
  linarith

theorem two_pi_mul_valueOf (t : Real32) : ∃ n : Int, 2 * Real.pi * ((valueOf t : ℚ) : ℝ) =
    (Real.pi * withinQuarter t / 2 + quarterOf t * (Real.pi / 2)) + n * (2 * Real.pi) := by
  obtain ⟨n, hn⟩ := valueOf_turn t
  refine ⟨n, ?_⟩
  rw [hn]
  push_cast
  ring

theorem three_quarter_turns : ((3 : Nat) : ℝ) * (Real.pi / 2) = Real.pi / 2 + Real.pi := by
  push_cast
  ring

/-- The exact cosine: the quarter turn gives its sign and where in the quarter turn its magnitude is taken. -/
theorem cos_turn (t : Real32) : ∃ f : ℚ, 0 ≤ f ∧ f ≤ 1 ∧ cosEnclosure t = sinQuarter f ∧
    Real.cos (2 * Real.pi * ((valueOf t : ℚ) : ℝ)) =
      if cosNegative t then -Real.sin (Real.pi * f / 2) else Real.sin (Real.pi * f / 2) := by
  obtain ⟨n, hn⟩ := two_pi_mul_valueOf t
  obtain ⟨hw0, hw1⟩ := withinQuarter_bounds t
  rw [hn, Real.cos_add_int_mul_two_pi]
  unfold cosEnclosure cosNegative
  have hq := quarterOf_lt t
  interval_cases quarterOf t
  · refine ⟨1 - withinQuarter t, by linarith, by linarith, rfl, ?_⟩
    rw [sin_complement]
    simp
  · refine ⟨withinQuarter t, hw0, hw1, rfl, ?_⟩
    simp [Real.cos_add_pi_div_two]
  · refine ⟨1 - withinQuarter t, by linarith, by linarith, rfl, ?_⟩
    rw [sin_complement]
    simp [mul_div_cancel₀, Real.cos_add_pi]
  · refine ⟨withinQuarter t, hw0, hw1, rfl, ?_⟩
    rw [three_quarter_turns, ← add_assoc, Real.cos_add_pi, Real.cos_add_pi_div_two]
    simp

/-- The exact sine in the same way. -/
theorem sin_turn (t : Real32) : ∃ f : ℚ, 0 ≤ f ∧ f ≤ 1 ∧ sinEnclosure t = sinQuarter f ∧
    Real.sin (2 * Real.pi * ((valueOf t : ℚ) : ℝ)) =
      if sinNegative t then -Real.sin (Real.pi * f / 2) else Real.sin (Real.pi * f / 2) := by
  obtain ⟨n, hn⟩ := two_pi_mul_valueOf t
  obtain ⟨hw0, hw1⟩ := withinQuarter_bounds t
  rw [hn, Real.sin_add_int_mul_two_pi]
  unfold sinEnclosure sinNegative
  have hq := quarterOf_lt t
  interval_cases quarterOf t
  · refine ⟨withinQuarter t, hw0, hw1, rfl, ?_⟩
    simp
  · refine ⟨1 - withinQuarter t, by linarith, by linarith, rfl, ?_⟩
    rw [sin_complement]
    simp [Real.sin_add_pi_div_two]
  · refine ⟨withinQuarter t, hw0, hw1, rfl, ?_⟩
    simp [mul_div_cancel₀, Real.sin_add_pi]
  · refine ⟨1 - withinQuarter t, by linarith, by linarith, rfl, ?_⟩
    rw [sin_complement, three_quarter_turns, ← add_assoc, Real.sin_add_pi, Real.sin_add_pi_div_two]
    simp

/-! One unit in the last place -/

/-- The lower end of an enclosure as the ratio that is rounded. -/
theorem low_ratio {e : Enclosure} (h : 0 ≤ e.low) :
    ((e.low.num.toNat * 2 ^ 149 : Nat) : ℚ) / e.low.den = e.low * 2 ^ 149 := by
  have hnum : ((e.low.num.toNat : Nat) : ℚ) = e.low.num := by
    exact_mod_cast Int.toNat_of_nonneg (Rat.num_nonneg.2 h)
  conv_rhs => rw [← Rat.num_div_den e.low]
  rw [Nat.cast_mul, hnum]
  push_cast
  ring

theorem rat_floor_toNat (q : ℚ) : q.floor.toNat = ⌊q⌋₊ := Int.floor_toNat q

theorem floor_low {e : Enclosure} (h : 0 ≤ e.low) :
    (e.low * 2 ^ 149).floor.toNat = e.low.num.toNat * 2 ^ 149 / e.low.den := by
  rw [← low_ratio h, rat_floor_toNat, Nat.floor_div_eq_div]

/-- The unit in the last place, beside the magnitude: 24 bits hold the magnitude. -/
theorem low_le_ulpOf (e : Enclosure) : e.low ≤ 2 ^ 24 * ulpOf e := by
  have hfloor := Nat.lt_floor_add_one (e.low * 2 ^ 149)
  rw [ulpOf, rat_floor_toNat]
  generalize ⌊e.low * 2 ^ 149⌋₊ = n at *
  have hbits := div_ulp_lt n
  rw [Nat.div_lt_iff_lt_mul (Nat.two_pow_pos _)] at hbits
  have hbits' : (n : ℚ) + 1 ≤ 2 ^ 24 * 2 ^ ulpExp n := by exact_mod_cast hbits
  rw [← mul_div_assoc, le_div_iff₀ (by positivity)]
  linarith

/-- The positive neighbours `a` and `b`: their distance is a power of two of units, with 24 bits above it. -/
theorem neighbours_split {a b : Real32} (ha : signBit a = false) (hfa : isFinite a = true)
    (hab : b.toNat = a.toNat + 1) :
    ∃ k m, m < 2 ^ 24 ∧ valueOf a = (m * 2 ^ k : Nat) / 2 ^ 149 ∧ valueOf b = ((m + 1) * 2 ^ k : Nat) / 2 ^ 149 := by
  have hinf : infBits = 253 * 2 ^ 23 + 2 ^ 24 := rfl
  have hlta : a.toNat < 2 ^ 31 := Nat.lt_of_not_le (of_decide_eq_false ha)
  have hfin : magBits a < infBits := of_decide_eq_true hfa
  have hb : signBit b = false := by
    rw [magBits] at hfin
    exact decide_eq_false (by omega)
  have hmag : magBits b = magBits a + 1 := by
    unfold magBits at *
    omega
  obtain ⟨k, m, hsplit, hm, hk⟩ := magBits_split (magBits a)
  refine ⟨k, m, hm, ?_, ?_⟩
  · rw [valueOf_eq_signFactor, ha, magUnits_eq_magValue, hsplit, magValue_add hm.le hk]
    simp [signFactor]
  · rw [valueOf_eq_signFactor, hb, magUnits_eq_magValue, hmag, hsplit, Nat.add_assoc,
      magValue_add (by omega) (by omega)]
    simp [signFactor]

/-- The unit below `b` is at most the distance of `b` from its lower neighbour. -/
theorem ulpOf_le {e : Enclosure} {a b : Real32} (h : 0 ≤ e.low) (ha : signBit a = false) (hfa : isFinite a = true)
    (hab : b.toNat = a.toNat + 1) (hlt : e.low < valueOf b) : ulpOf e ≤ valueOf b - valueOf a := by
  obtain ⟨k, m, hm, hva, hvb⟩ := neighbours_split ha hfa hab
  rw [hvb, lt_div_iff₀ (by positivity)] at hlt
  have hfloor : (e.low * 2 ^ 149).floor.toNat < (m + 1) * 2 ^ k := by
    rw [rat_floor_toNat]
    exact (Nat.floor_lt (by positivity)).2 hlt
  have hexp : ulpExp (e.low * 2 ^ 149).floor.toNat ≤ k := by
    refine ulpExp_le (Nat.lt_of_lt_of_le hfloor ?_)
    rw [Nat.pow_add]
    exact Nat.mul_le_mul_right _ hm
  have hpow : (2 : ℚ) ^ ulpExp (e.low * 2 ^ 149).floor.toNat ≤ 2 ^ k := pow_le_pow_right₀ one_le_two hexp
  rw [hva, hvb, ← sub_div, ulpOf]
  refine div_le_div_of_nonneg_right (hpow.trans_eq ?_) (by positivity)
  push_cast
  ring

/-- The rounded lower end: finite, of the sign asked for, and half a unit from the end at most. -/
theorem roundRatio_low {e : Enclosure} (h0 : 0 ≤ e.low) (h1 : e.low ≤ 1) (neg : Bool) :
    isFinite (roundRatio neg (e.low.num.toNat * 2 ^ 149) e.low.den) = true ∧
    ∃ v : ℚ, valueOf (roundRatio neg (e.low.num.toNat * 2 ^ 149) e.low.den) = (if neg then -v else v) ∧
      |v - e.low| ≤ ulpOf e / 2 := by
  have hfin : isFinite (roundRatio neg (e.low.num.toNat * 2 ^ 149) e.low.den) = true := by
    refine isFinite_roundRatio neg ?_
    rw [← floor_low h0, rat_floor_toNat, Nat.floor_lt (by positivity)]
    push_cast
    linarith
  refine ⟨hfin, magUnits (roundRatio neg (e.low.num.toNat * 2 ^ 149) e.low.den) / 2 ^ 149, ?_, ?_⟩
  · rw [valueOf_eq_signFactor, signBit_roundRatio]
    cases neg <;> simp [signFactor, neg_div]
  · have herr := (roundRatio_roundsTo_of_finite (K := ℚ) e.low.den_pos hfin).abs_sub_le
    rw [(magValue_truncBits _ _).2, ← floor_low h0, low_ratio h0, ← magUnits_eq_magValue, Nat.cast_add,
      add_sub_cancel_left, Nat.cast_pow, Nat.cast_ofNat] at herr
    generalize magUnits (roundRatio neg (e.low.num.toNat * 2 ^ 149) e.low.den) = M at *
    have hpow : (0 : ℚ) < 2 ^ 149 := by positivity
    rw [ulpOf, div_right_comm, le_div_iff₀ hpow]
    generalize ulpExp (e.low * 2 ^ 149).floor.toNat = k at *
    calc |(M : ℚ) / 2 ^ 149 - e.low| * 2 ^ 149 = |((M : ℚ) / 2 ^ 149 - e.low) * 2 ^ 149| := by
          rw [abs_mul, abs_of_pos hpow]
      _ = |(M : ℚ) - e.low * 2 ^ 149| := by rw [sub_mul, div_mul_cancel₀ _ hpow.ne']
      _ ≤ 2 ^ k / 2 := (le_div_iff₀' two_pos).2 herr

/-- The pattern is finite and differs from `y` by at most the distance of the neighbouring values around the magnitude
of `y` (46_numerics.md R266 (b); assumption log 3). -/
structure WithinUlp (p : Real32) (y : ℝ) : Prop where
  finite : isFinite p = true
  near : ∀ a b : Real32, signBit a = false → isFinite a = true → b.toNat = a.toNat + 1 →
    ((valueOf a : ℚ) : ℝ) ≤ |y| → |y| < ((valueOf b : ℚ) : ℝ) →
    |((valueOf p : ℚ) : ℝ) - y| ≤ ((valueOf b - valueOf a : ℚ) : ℝ)

theorem withinUlp_of_hasValue {p : Real32} {q : ℚ} {y : ℝ} (h : HasValue p q) (hy : y = q) : WithinUlp p y where
  finite := h.1
  near a b _ _ _ hlow hupp := by
    rw [hy, h.2, sub_self, abs_zero, Rat.cast_sub]
    linarith

/-- What `pickWithin` returns is finite, of the sign asked for, and within one unit of the enclosed magnitude: by the
two ends of the enclosure where the proposed pattern is taken, else by half a unit each of rounding and of width. -/
theorem pickWithin_near {e : Enclosure} {y : ℝ} (he : Encloses e y) (hy : y ≤ 1) (neg : Bool) (p : Real32) :
    isFinite (pickWithin neg e p) = true ∧
    ∃ v : ℚ, valueOf (pickWithin neg e p) = (if neg then -v else v) ∧ |(v : ℝ) - y| ≤ (ulpOf e : ℚ) := by
  obtain ⟨h0, hlow, hhigh, hnarrow⟩ := he
  rcases pickWithin_cases neg e p with ⟨hin, hpick⟩ | ⟨-, hpick⟩
  case inl =>
    rw [hpick]
    simp only [withinUlp, Bool.and_eq_true, decide_eq_true_eq] at hin
    obtain ⟨hfin, hvlow, hvhigh⟩ := hin
    refine ⟨hfin, if neg then -valueOf p else valueOf p, by cases neg <;> simp, ?_⟩
    generalize (if neg then -valueOf p else valueOf p) = v at *
    have hvlow : (e.high : ℝ) - ulpOf e ≤ v := by exact_mod_cast hvlow
    have hvhigh : (v : ℝ) ≤ e.low + ulpOf e := by exact_mod_cast hvhigh
    rw [abs_le]
    constructor <;> linarith
  case inr =>
    have h1 : e.low ≤ 1 := by exact_mod_cast hlow.trans hy
    obtain ⟨hfin, v, hv, herr⟩ := roundRatio_low h0 h1 neg
    rw [hpick]
    refine ⟨hfin, v, hv, ?_⟩
    have herr : |(v : ℝ) - e.low| ≤ (ulpOf e : ℚ) / 2 := by exact_mod_cast (Rat.cast_le (K := ℝ)).2 herr
    have hulp : (e.low : ℝ) ≤ 2 ^ 24 * (ulpOf e : ℚ) := by
      exact_mod_cast (Rat.cast_le (K := ℝ)).2 (low_le_ulpOf e)
    have hwidth : |(e.low : ℝ) - y| ≤ (ulpOf e : ℚ) / 2 := by
      rw [abs_of_nonpos (by linarith)]
      norm_num at hnarrow hulp ⊢
      linarith
    linarith [abs_sub_le (v : ℝ) e.low y]

/-- The signed exact value of a turn, from the enclosure of its magnitude. -/
theorem withinUlp_pickWithin {e : Enclosure} {y : ℝ} (he : Encloses e y) (hy : y ≤ 1) (neg : Bool) (p : Real32) :
    WithinUlp (pickWithin neg e p) (if neg then -y else y) := by
  obtain ⟨hfin, v, hv, hnear⟩ := pickWithin_near he hy neg p
  have hlow : (0 : ℝ) ≤ e.low := by exact_mod_cast he.low_nonneg
  refine ⟨hfin, fun a b ha hfa hab _ hupp => ?_⟩
  have hmag : |if neg then -y else y| = y := by
    have := abs_of_nonneg (hlow.trans he.low_le)
    cases neg <;> simpa using this
  have hdiff : |((valueOf (pickWithin neg e p) : ℚ) : ℝ) - (if neg then -y else y)| = |(v : ℝ) - y| := by
    rw [hv]
    cases neg
    · simp
    · simp [abs_sub_comm, neg_add_eq_sub]
  rw [hmag] at hupp
  rw [hdiff]
  refine hnear.trans (Rat.cast_le.2 (ulpOf_le he.low_nonneg ha hfa hab ?_))
  exact_mod_cast he.low_le.trans_lt hupp

/-! The quarter points -/

theorem cos2pi_rQuarter : cos2pi rQuarter = rZero := rfl
theorem sin2pi_rQuarter : sin2pi rQuarter = rOne := rfl
theorem cos2pi_rHalf : cos2pi rHalf = rNegOne := rfl
theorem sin2pi_rHalf : sin2pi rHalf = rZero := rfl
theorem cos2pi_rThreeQuarters : cos2pi rThreeQuarters = rZero := rfl
theorem sin2pi_rThreeQuarters : sin2pi rThreeQuarters = rNegOne := rfl

theorem hasValue_negOne : HasValue rNegOne (-1) := hasValue_rNeg hasValue_one

theorem valueOf_quarters : valueOf rQuarter = 1 / 4 ∧ valueOf rHalf = 1 / 2 ∧ valueOf rThreeQuarters = 3 / 4 := by
  exact ⟨(valueOf_of_units (i := 2 ^ 147) (by decide)).trans (by norm_num),
    (valueOf_of_units (i := 2 ^ 148) (by decide)).trans (by norm_num),
    (valueOf_of_units (i := 3 * 2 ^ 147) (by decide)).trans (by norm_num)⟩

/-- The angles of the three quarter points above 0. -/
theorem quarter_angles : 2 * Real.pi * ((valueOf rQuarter : ℚ) : ℝ) = Real.pi / 2 ∧
    2 * Real.pi * ((valueOf rHalf : ℚ) : ℝ) = Real.pi ∧
    2 * Real.pi * ((valueOf rThreeQuarters : ℚ) : ℝ) = Real.pi / 2 + Real.pi := by
  obtain ⟨hq, hh, ht⟩ := valueOf_quarters
  rw [hq, hh, ht]
  push_cast
  refine ⟨?_, ?_, ?_⟩ <;> ring

theorem cos2pi_withinUlp {t : Real32} (hf : isFinite t = true) :
    WithinUlp (cos2pi t) (Real.cos (2 * Real.pi * ((valueOf t : ℚ) : ℝ))) := by
  obtain ⟨hquarter, hhalf, hthree⟩ := quarter_angles
  unfold cos2pi
  rw [if_pos hf]
  split_ifs with hz hq hh ht
  · exact withinUlp_of_hasValue hasValue_one (by simp [valueOf_of_isZero hz])
  · exact withinUlp_of_hasValue hasValue_zero (by simp [hq, hquarter])
  · exact withinUlp_of_hasValue hasValue_negOne (by simp [hh, hhalf])
  · exact withinUlp_of_hasValue hasValue_zero (by simp [ht, hthree, Real.cos_add_pi])
  · obtain ⟨f, hf0, hf1, he, hcos⟩ := cos_turn t
    rw [he, hcos]
    exact withinUlp_pickWithin (sinQuarter_encloses hf0 hf1) (Real.sin_le_one _) _ _

theorem sin2pi_withinUlp {t : Real32} (hf : isFinite t = true) :
    WithinUlp (sin2pi t) (Real.sin (2 * Real.pi * ((valueOf t : ℚ) : ℝ))) := by
  obtain ⟨hquarter, hhalf, hthree⟩ := quarter_angles
  unfold sin2pi
  rw [if_pos hf]
  split_ifs with hz hq hh ht
  · exact withinUlp_of_hasValue hasValue_zero (by simp [valueOf_of_isZero hz])
  · exact withinUlp_of_hasValue hasValue_one (by simp [hq, hquarter])
  · exact withinUlp_of_hasValue hasValue_zero (by simp [hh, hhalf])
  · exact withinUlp_of_hasValue hasValue_negOne (by simp [ht, hthree, Real.sin_add_pi])
  · obtain ⟨f, hf0, hf1, he, hsin⟩ := sin_turn t
    rw [he, hsin]
    exact withinUlp_pickWithin (sinQuarter_encloses hf0 hf1) (Real.sin_le_one _) _ _

end Sys2Proof.Machine

open Sys2Proof.Machine

/-- Settles O58: a zero of the two functions is the positive zero (assumption log 6). -/
theorem quarterPoints : Obligations.QuarterPoints :=
  ⟨cos2pi_zero, sin2pi_zero, cos2pi_rQuarter, sin2pi_rQuarter, cos2pi_rHalf, sin2pi_rHalf, cos2pi_rThreeQuarters,
    sin2pi_rThreeQuarters⟩

/-- Settles O59: both functions are `WithinUlp` of the real ones. -/
theorem admittedTrigWithinOneUlp : Obligations.AdmittedTrigWithinOneUlp := by
  intro t hf
  obtain ⟨hcfin, hcos⟩ := cos2pi_withinUlp hf
  obtain ⟨hsfin, hsin⟩ := sin2pi_withinUlp hf
  exact ⟨hcfin, hsfin, fun a b ha hfa _ hab => ⟨hcos a b ha hfa hab, hsin a b ha hfa hab⟩⟩
end

/-! PROOFS. How an operation ends (60_exceptions.md R280 to R292): the forms of the state after it, said once for all
operations, and from them the status, the fault registers, the phases and the causes of `BadAccess`. -/
section
namespace Sys2Proof.Machine

/-! The phases an operation is permitted in -/

/-- An operation outside its phases raises `BadAccess`, whatever its rule is. -/
theorem exec_forbidden {i : Instr} {s : State} (hperm : permittedIn i s.sys.phase = false) :
    exec i s = .next (takeFault .badAccess s) := by
  obtain ⟨body, hexec, -⟩ := exec_runs_popping_rule i s
  rw [hexec, runOp_forbidden hperm]

theorem permittedIn_failed {i : Instr} (h : ∀ a, i ≠ .cfgRd a) : permittedIn i .failed = false := by
  cases i
  case cfgRd a => exact absurd rfl (h a)
  all_goals rfl

theorem permittedIn_config {i : Instr} (hbuild : i ≠ .sysBuild) (hrd : ∀ a, i ≠ .cfgRd a)
    (hwr : ∀ a, i ≠ .cfgWr a) : permittedIn i .config = false := by
  cases i
  case sysBuild => exact absurd rfl hbuild
  case cfgRd a => exact absurd rfl (hrd a)
  case cfgWr a => exact absurd rfl (hwr a)
  all_goals rfl

theorem permittedIn_cfgWr_iff (a : Nat) (p : Phase) : permittedIn (.cfgWr a) p = true ↔ p ≠ .failed := by
  cases p <;> simp [permittedIn]

/-! The causes of a refused write -/

/-- The causes (c) to (f) of 60_exceptions.md R287: why a mapped register refuses a value. -/
def WriteCause (r : CfgReg) (v : Word) (s : State) : Prop :=
  cfgAccess r = .ro ∨ (cfgAccess r = .rwc ∧ s.sys.phase = .run) ∨
    (r = .cfrActive ∧ v ≠ 0#32 ∧ v ≠ 1#32) ∨
    (r = .synSymIdx ∧ s.sys.phase = .run ∧ ¬(0 ≤ v.toInt ∧ v.toInt < nSym s)) ∨
    (r = .synSymIdx ∧ s.sys.phase = .config ∧ v ≠ 0#32)

/-- The `rw` registers of 10_state.md R50 are the gate and the frame index. -/
theorem eq_of_cfgAccess_rw {r : CfgReg} (h : cfgAccess r = .rw) : r = .cfrActive ∨ r = .synSymIdx := by
  cases r
  case cfrActive => exact .inl rfl
  case synSymIdx => exact .inr rfl
  all_goals cases h

/-- A write that fails one of the two checks has one of the causes. -/
theorem writeCause_of_refused {s : State} {r : CfgReg} {v : Word} (hp : s.sys.phase ≠ .failed)
    (hno : ¬(cfgWritable r s.sys.phase && cfgValueOk r v s) = true) : WriteCause r v s := by
  rw [Bool.and_eq_true, not_and] at hno
  cases hacc : cfgAccess r with
  | ro => exact .inl hacc
  | rwc =>
    rw [cfgWritable_rwc_iff hacc] at hno
    cases hph : s.sys.phase with
    | config => exact absurd (cfgValueOk_rwc hacc v s) (hno hph)
    | run => exact .inr (.inl ⟨hacc, hph⟩)
    | failed => exact absurd hph hp
  | rw =>
    rcases eq_of_cfgAccess_rw hacc with rfl | rfl
    · have hv := hno rfl
      rw [cfgValueOk_cfrActive_iff, not_or] at hv
      exact .inr (.inr (.inl ⟨rfl, hv⟩))
    · have hv := hno rfl
      cases hph : s.sys.phase with
      | config =>
        rw [cfgValueOk_symIdx_idle (by rw [hph]; nofun)] at hv
        exact .inr (.inr (.inr (.inr ⟨rfl, hph, hv⟩)))
      | run =>
        rw [cfgValueOk_symIdx_run hph] at hv
        exact .inr (.inr (.inr (.inl ⟨rfl, hph, hv⟩)))
      | failed => exact absurd hph hp

/-- A `CFG.WR` that starts has taken its operand. -/
theorem operand_of_exec_cfgWr {a : Nat} {s t : State} (hp : s.sys.phase ≠ .failed)
    (he : exec (.cfgWr a) s = .next t) :
    ∃ v rest, s.din = v :: rest ∧ t = writeReg a v { s with din := rest } := by
  cases hd : s.din with
  | nil =>
    obtain ⟨hwaits, -⟩ := operationWaitsForItsWords (.cfgWr a) s ((permittedIn_cfgWr_iff a _).2 hp)
    rw [hwaits (by rw [hd]; exact Nat.zero_lt_one)] at he
    cases he
  | cons v rest =>
    rw [exec_cfgWr hp hd] at he
    cases he
    exact ⟨v, rest, rfl, rfl⟩

/-! The forms of the state after an operation -/

/-- The states an operation can end in: the four kinds of refusal, the two operations that change SYS, and a rule that
completes with status 0 or 2 and leaves SYS. -/
inductive Ending (i : Instr) (s : State) : State → Prop
  | forbidden (hperm : permittedIn i s.sys.phase = false) : Ending i s (takeFault .badAccess s)
  | rejected (hi : i = .sysBuild) (hp : s.sys.phase = .config) : Ending i s (takeFault .configError s)
  | constructed (hi : i = .sysBuild) (hp : s.sys.phase = .config) : Ending i s (pushStat .ok (built s))
  | unmappedRead {a : Nat} (hi : i = .cfgRd a) (ha : cfgRegAt a = none) : Ending i s (takeFault .badAccess s)
  | refusedWrite {a : Nat} {v : Word} {rest : List Word} (hi : i = .cfgWr a) (hp : s.sys.phase ≠ .failed)
      (hd : s.din = v :: rest) (hcause : cfgRegAt a = none ∨ ∃ r, cfgRegAt a = some r ∧ WriteCause r v s) :
      Ending i s (takeFault .badAccess { s with din := rest })
  | written (r : CfgReg) (v : Word) (rest : List Word) :
      Ending i s (pushStat .ok (cfgWrite r v { s with din := rest }))
  | completed {c : Status} {u : State} (hc : c = .ok ∨ c = .processingAborted) (hsys : u.sys = s.sys)
      (hstat : u.stat = s.stat) : Ending i s (finish c u)

theorem drainStatus_cases (n : Nat) (g : Gar) : drainStatus n g = .ok ∨ drainStatus n g = .processingAborted := by
  unfold drainStatus
  split
  · exact .inr rfl
  · exact .inl rfl

theorem garStep_sys (s : State) (x : C) : (garStep s x).state.sys = s.sys := rfl

theorem synSample_sys (s : State) (x : C) : (synSample s x).sys = s.sys := by
  rw [synSample_eq]

theorem exec_cfgWr_ending {a : Nat} {s t : State} (hp : s.sys.phase ≠ .failed) (he : exec (.cfgWr a) s = .next t) :
    Ending (.cfgWr a) s t := by
  obtain ⟨v, rest, hd, rfl⟩ := operand_of_exec_cfgWr hp he
  cases ha : cfgRegAt a with
  | none =>
    rw [writeReg_unmapped ha]
    exact .refusedWrite rfl hp hd (.inl ha)
  | some r =>
    simp only [writeReg, ha]
    split
    · exact .written r v rest
    · exact .refusedWrite rfl hp hd (.inr ⟨r, ha, writeCause_of_refused (s := { s with din := rest }) hp ‹_›⟩)

/-- Every operation that answers a next state ends in one of the forms. -/
theorem exec_ending {i : Instr} {s t : State} (he : exec i s = .next t) : Ending i s t := by
  cases hperm : permittedIn i s.sys.phase with
  | false =>
    rw [exec_forbidden hperm] at he
    cases he
    exact .forbidden hperm
  | true =>
    have ends : ∀ {body : State → State}, runOp i body s = .next t → Ending i s (body s) → Ending i s t :=
      fun hrun hbody => by
        rcases runOp_next hrun with ⟨-, -, rfl⟩ | ⟨hno, -⟩
        · exact hbody
        · rw [hperm] at hno
          cases hno
    cases i
    case cfgWr a => exact exec_cfgWr_ending ((permittedIn_cfgWr_iff a _).1 hperm) he
    all_goals
      dsimp only [exec] at he
      refine ends he ?_
    case sysBuild =>
      have hp : s.sys.phase = .config := eq_of_beq hperm
      split
      · exact .constructed rfl hp
      · exact .rejected rfl hp
    case cfgRd a =>
      split
      · exact .unmappedRead rfl ‹_›
      · exact .completed (.inl rfl) rfl rfl
    case garSync =>
      have hblock := foldl_garStep_uncounted (popBlock (nSmp s) s).1 (popBlock (nSmp s) s).2
      exact .completed (.inl rfl) (foldl_leaves State.sys garStep_sys _ (popBlock (nSmp s) s).2) hblock.stat
    case garExtract => exact .completed (drainStatus_cases _ _) rfl rfl
    case synSync =>
      have hblock := foldl_synSample_uncounted (popBlock (nSmp s) s).1 (popBlock (nSmp s) s).2
      exact .completed (drainStatus_cases _ _) (foldl_leaves State.sys synSample_sys _ (popBlock (nSmp s) s).2)
        hblock.stat
    all_goals exact .completed (.inl rfl) rfl rfl

/-- A step without `RST` takes a command word, which is unimplemented or an operation that ends in one of the forms. -/
theorem step_ending {s t : State} (hrst : s.rst = false) (h : step s = .next t) :
    ∃ cw rest, s.cmd = cw :: rest ∧
      ((∃ e, decode cw = .error e ∧ t = takeFault .unimplemented { s with cmd := rest }) ∨
       (∃ i, decode cw = .ok i ∧ Ending i { s with cmd := rest } t)) := by
  rcases step_cases s with ⟨hr, -⟩ | ⟨-, -, e⟩ | ⟨-, cw, rest, hcmd, ⟨err, hd, e⟩ | ⟨i, hd, e⟩⟩
  · rw [hrst] at hr
    cases hr
  · rw [e] at h
    cases h
  · rw [e] at h
    cases h
    exact ⟨cw, rest, hcmd, .inl ⟨err, hd, rfl⟩⟩
  · exact ⟨cw, rest, hcmd, .inr ⟨i, hd, exec_ending (e ▸ h)⟩⟩

/-! The phase and the fault registers -/

/-- The status that a known `STAT` ends with. -/
theorem status_eq_of_append {l : List Status} {c d : Status} (h : l ++ [c] = l ++ [d]) : c = d := by
  simpa using h

/-- No register write reaches the fault registers. -/
theorem cfgWrite_faultRegs (r : CfgReg) (v : Word) (s : State) :
    (cfgWrite r v s).sys.faultLast = s.sys.faultLast ∧ (cfgWrite r v s).sys.faultMask = s.sys.faultMask := by
  cases r <;> exact ⟨rfl, rfl⟩

theorem cfgWrite_phase (r : CfgReg) (v : Word) (s : State) : (cfgWrite r v s).sys.phase = s.sys.phase := by
  obtain ⟨-, -, -, -, hphase⟩ := cfgWrite_frame r v s
  exact hphase

theorem cfgWrite_stat (r : CfgReg) (v : Word) (s : State) : (cfgWrite r v s).stat = s.stat := by
  obtain ⟨-, -, -, hstat, -⟩ := cfgWrite_ports r v s
  exact hstat

/-- An operation keeps the phase, or is a `SYS.BUILD` in CONFIG that enters RUN or FAILED with its status. -/
theorem Ending.phase {i : Instr} {s t : State} (h : Ending i s t) :
    t.sys.phase = s.sys.phase ∨ i = .sysBuild ∧ s.sys.phase = .config ∧
      ((t.sys.phase = .run ∧ t.stat = s.stat ++ [.ok]) ∨
       (t.sys.phase = .failed ∧ t.stat = s.stat ++ [.configError])) := by
  cases h with
  | forbidden | unmappedRead | refusedWrite => exact .inl rfl
  | rejected hi hp => exact .inr ⟨hi, hp, .inr ⟨rfl, rfl⟩⟩
  | constructed hi hp => exact .inr ⟨hi, hp, .inl ⟨rfl, rfl⟩⟩
  | written r v rest => exact .inl (cfgWrite_phase r v { s with din := rest })
  | completed hc hsys hstat =>
    left
    rcases hc with rfl | rfl
    · exact congrArg Sys.phase hsys
    · exact congrArg (fun y => (recordFault .processingAborted y).phase) hsys

theorem faultsAgree_reset : FaultsAgree Sys.reset := ⟨rfl, absurd rfl, fun _ => rfl, nofun, nofun⟩

/-- The mask after a fault: the bit of its code is set, every other one stays. -/
theorem getLsbD_recordFault (st : Status) (y : Sys) (j : Nat) :
    (recordFault st y).faultMask.getLsbD j = (y.faultMask.getLsbD j || decide (statusCode st = j)) := by
  have hcode : statusCode st < 5 := by cases st <;> decide
  simp only [recordFault, BitVec.getLsbD_or, ← BitVec.twoPow_eq, BitVec.getLsbD_twoPow, hcode, decide_true,
    Bool.true_and]

/-- A recorded fault keeps the agreement: its own bit is set, and the phase is FAILED with bit 1. -/
theorem FaultsAgree.recordFault {y : Sys} (h : FaultsAgree y) {st : Status} (hst : st ≠ .ok) :
    FaultsAgree (recordFault st y) where
  bitZero := by
    rw [getLsbD_recordFault, h.bitZero]
    cases st
    case ok => exact absurd rfl hst
    all_goals rfl
  last _ := by simp [getLsbD_recordFault]
  clean hok := absurd hok hst
  failed := by
    rw [getLsbD_recordFault]
    by_cases hc : st = .configError
    · subst hc
      simp [statusCode]
    · have hcode : statusCode st ≠ 1 := by
        cases st
        case configError => exact absurd rfl hc
        all_goals decide
      simp [recordFault_phase hc, hcode, h.failed]

/-- The agreement reads the fault registers and whether the phase is FAILED. -/
theorem FaultsAgree.of_eq {y z : Sys} (h : FaultsAgree y)
    (hregs : z.faultLast = y.faultLast ∧ z.faultMask = y.faultMask)
    (hphase : z.phase = .failed ↔ y.phase = .failed) : FaultsAgree z where
  bitZero := by rw [hregs.2, h.bitZero]
  last := by rw [hregs.1, hregs.2]; exact h.last
  clean := by rw [hregs.1, hregs.2]; exact h.clean
  failed := by rw [hregs.2, hphase]; exact h.failed

theorem Ending.faultsAgree {i : Instr} {s t : State} (h : Ending i s t) (hs : FaultsAgree s.sys) :
    FaultsAgree t.sys := by
  cases h with
  | forbidden | unmappedRead | refusedWrite | rejected => exact hs.recordFault nofun
  | constructed _ hp => exact hs.of_eq ⟨rfl, rfl⟩ ⟨nofun, fun hf => by rw [hp] at hf; cases hf⟩
  | written r v rest =>
    exact hs.of_eq (cfgWrite_faultRegs r v { s with din := rest })
      (by rw [pushStat_sys, cfgWrite_phase r v { s with din := rest }])
  | completed hc hsys hstat =>
    rw [finish_sys, hsys]
    split
    · exact hs
    · exact hs.recordFault ‹_›

end Sys2Proof.Machine

open Sys2Proof Sys2Proof.Machine

/-- Settles O10: form by form, the status of the ending and what `recordFault` makes of SYS. -/
theorem statusAndFaultRegisters : Obligations.StatusAndFaultRegisters := by
  intro s t hrst hstep
  obtain ⟨cw, rest, -, ⟨-, -, rfl⟩ | ⟨i, -, hend⟩⟩ := step_ending hrst hstep
  · exact ⟨.unimplemented, rfl, rfl⟩
  · cases hend with
    | forbidden | unmappedRead | refusedWrite => exact ⟨.badAccess, rfl, rfl⟩
    | rejected => exact ⟨.configError, rfl, rfl⟩
    | constructed => exact ⟨.ok, rfl, rfl, rfl⟩
    | written r v din =>
      exact ⟨.ok, congrArg (· ++ [Status.ok]) (cfgWrite_stat r v { s with cmd := rest, din := din }),
        cfgWrite_faultRegs r v { s with cmd := rest, din := din }⟩
    | @completed c u hc hsys hstat =>
      refine ⟨c, (finish_stat c u).trans (congrArg (· ++ [c]) hstat), ?_⟩
      rcases hc with rfl | rfl
      · exact ⟨congrArg Sys.faultLast hsys, congrArg Sys.faultMask hsys⟩
      · exact congrArg (recordFault .processingAborted) hsys

/-- Settles O11: every form that ends with code 1, 3 or 4 is `takeFault` of the state with the words taken, and only a
refused write has taken one from `DIN`. -/
theorem refusingFaultChangesNothingElse : Obligations.RefusingFaultChangesNothingElse := by
  intro s t c hrst hstep hstat hc
  obtain ⟨cw, rest, hcmd, ⟨e, hd, rfl⟩ | ⟨i, hd, hend⟩⟩ := step_ending hrst hstep
  · cases status_eq_of_append hstat
    exact ⟨cw, rest, hcmd, rfl, (fun ⟨_, ha⟩ => nomatch hd.symm.trans ha), fun _ => rfl⟩
  · have hnot {j : Instr} (hj : i ≠ j) : decode cw ≠ .ok j := fun h => hj (Except.ok.inj (hd.symm.trans h))
    cases hend with
    | forbidden hperm =>
      cases status_eq_of_append hstat
      refine ⟨cw, rest, hcmd, rfl, fun ⟨a, ha⟩ hp => absurd ha (hnot ?_), fun _ => rfl⟩
      rintro rfl
      exact ne_true_of_eq_false hperm ((permittedIn_cfgWr_iff a _).2 hp)
    | rejected hi hp | unmappedRead hi =>
      cases status_eq_of_append hstat
      exact ⟨cw, rest, hcmd, rfl, fun ⟨a, ha⟩ _ => absurd ha (hnot (by rw [hi]; nofun)), fun _ => rfl⟩
    | refusedWrite hi hp hdin =>
      cases status_eq_of_append hstat
      refine ⟨cw, rest, hcmd, rfl, fun _ _ => ⟨_, hdin⟩, ?_⟩
      rintro (hno | hf)
      · exact absurd (hd.trans (congrArg _ hi)) (hno _)
      · exact absurd hf hp
    | constructed =>
      cases status_eq_of_append hstat
      rcases hc with h | h | h <;> cases h
    | written r v din =>
      rw [pushStat_stat, cfgWrite_stat] at hstat
      cases status_eq_of_append hstat
      rcases hc with h | h | h <;> cases h
    | completed hc' hsys hu =>
      rw [finish_stat, hu] at hstat
      cases status_eq_of_append hstat
      rcases hc' with rfl | rfl <;> rcases hc with h | h | h <;> cases h

/-- Settles O12: the three rows are phases the operation is not permitted in. -/
theorem phaseTable : Obligations.PhaseTable := by
  intro i s hrow
  refine exec_forbidden ?_
  rcases hrow with ⟨hp, hrd⟩ | ⟨hp, hbuild, hrd, hwr⟩ | ⟨hp, rfl⟩ <;> rw [hp]
  · exact permittedIn_failed hrd
  · exact permittedIn_config hbuild hrd hwr
  · rfl

/-- Settles O13: an unimplemented word keeps the phase, and of the operations `Ending.phase` speaks. -/
theorem phaseMovesOnlyAtBuild : Obligations.PhaseMovesOnlyAtBuild := by
  intro s t hrst hstep hmoved
  obtain ⟨cw, rest, hcmd, ⟨-, -, rfl⟩ | ⟨i, hd, hend⟩⟩ := step_ending hrst hstep
  · exact absurd rfl hmoved
  · rcases hend.phase with hsame | ⟨rfl, hp, hto⟩
    · exact absurd hsame hmoved
    · exact ⟨hp, ⟨cw, rest, hcmd, hd⟩, hto⟩

/-- Settles O14: code 1 by O10, the refusals by O12, no way out of FAILED by O13, and the `RST` event. -/
theorem failedIsFinal : Obligations.FailedIsFinal := by
  refine ⟨fun s t hrst hstep hstat => ?_, fun s hp => ⟨fun i hi => phaseTable i s (.inl ⟨hp, hi⟩),
    fun a r => exec_cfgRd, fun t hrst hstep => ?_, fun hr => ?_⟩⟩
  · obtain ⟨c, hc, hsys⟩ := statusAndFaultRegisters s t hrst hstep
    cases status_eq_of_append (hc.symm.trans hstat)
    exact congrArg Sys.phase hsys
  · by_contra hout
    obtain ⟨hconfig, -⟩ := phaseMovesOnlyAtBuild s t hrst hstep (by rwa [hp])
    rw [hp] at hconfig
    cases hconfig
  · exact ⟨hardwareReset s, if_pos hr, rfl⟩

/-- Settles O15: the forms that end with `BadAccess` carry their causes; each cause in turn forbids the operation or is
one that `CFG.RD` or `CFG.WR` refuses. -/
theorem badAccessCauses : Obligations.BadAccessCauses := by
  intro i s t he
  constructor
  · intro hstat
    cases exec_ending he with
    | forbidden hperm => exact .inl hperm
    | unmappedRead hi ha => exact .inr (.inl ⟨_, .inr hi, by rw [hi]; rfl, ha⟩)
    | @refusedWrite a v rest hi hp hd hcause =>
      have hperm : permittedIn i s.sys.phase = true := by rw [hi, permittedIn_cfgWr_iff]; exact hp
      rcases hcause with ha | ⟨r, ha, hcause⟩
      · exact .inr (.inl ⟨a, .inl hi, hperm, ha⟩)
      · exact .inr (.inr ⟨a, r, v, hi, hperm, ha, by rw [hd]; rfl, hcause⟩)
    | rejected | constructed => cases status_eq_of_append hstat
    | written r v rest =>
      rw [pushStat_stat, cfgWrite_stat] at hstat
      cases status_eq_of_append hstat
    | completed hc hsys hu =>
      rw [finish_stat, hu] at hstat
      cases status_eq_of_append hstat
      rcases hc with hc | hc <;> cases hc
  · rintro (hperm | ⟨a, rfl | rfl, hperm, ha⟩ | ⟨a, r, v, rfl, hperm, ha, hv, hcause⟩)
    · rw [exec_forbidden hperm] at he
      cases he
      rfl
    · obtain ⟨v, rest, -, rfl⟩ := operand_of_exec_cfgWr ((permittedIn_cfgWr_iff a _).1 hperm) he
      rw [writeReg_unmapped ha]
      rfl
    · rw [exec_cfgRd_unmapped ha] at he
      cases he
      rfl
    · obtain ⟨rest, hd⟩ := List.head?_eq_some_iff.1 hv
      have hne (hrun : s.sys.phase = .run) : s.sys.phase ≠ .config := by rw [hrun]; nofun
      have hform := hcause.imp_right (Or.imp_left (And.imp_right hne))
      rw [cfgWrRefused s a v rest ((permittedIn_cfgWr_iff a _).1 hperm) hd (.inr ⟨r, ha, hform⟩)] at he
      cases he
      rfl

/-- Settles O18: the registers agree after `RST`, a recorded fault keeps the agreement, and so does every ending. -/
theorem stepKeepsFaultsAgree : Obligations.StepKeepsFaultsAgree := by
  intro s t hs hstep
  exact step_keeps (P := fun u => FaultsAgree u.sys) faultsAgree_reset (fun _ => hs) (fun _ hu => hu.recordFault nofun)
    (fun _ _ hu he => (exec_ending he).faultsAgree hu) hstep
end

/-! PROOFS. Hardware reset and the wait for a command word (70_reset_and_hazards.md R300, R301): the two steps that
take no command, and the state that `RST` leaves. -/
section
namespace Sys2Proof.Machine

/-- The step when `RST` is raised, whatever waits on `CMD`. -/
theorem step_rst {s : State} (hrst : s.rst = true) : step s = .next (hardwareReset s) := by
  rcases step_cases s with ⟨-, e⟩ | ⟨hr, -⟩ | ⟨hr, -⟩
  · exact e
  · exact nomatch hrst.symm.trans hr
  · exact nomatch hrst.symm.trans hr

/-- The step when neither `RST` nor a command word is there. -/
theorem step_noCommand {s : State} (hrst : s.rst = false) (hcmd : s.cmd = []) : step s = .fault .noCommand := by
  rcases step_cases s with ⟨hr, -⟩ | ⟨-, -, e⟩ | ⟨-, cw, rest, hc, -⟩
  · exact nomatch hrst.symm.trans hr
  · exact e
  · exact nomatch hcmd.symm.trans hc

/-- The `RST` event right after hardware reset changes nothing. -/
@[simp] theorem hardwareReset_reset : hardwareReset State.reset = State.reset := rfl

theorem reset_shape : Shaped State.reset := hardwareReset_reset ▸ hardwareReset_shape State.reset

end Sys2Proof.Machine

open Sys2Proof.Machine

/-- Settles O6: `hardwareReset` is the reset state with the host's command list and matched filter. -/
theorem resetEvent : Obligations.ResetEvent := fun _ => step_rst

/-- Settles O7: each element of R301 is the one that the reset state of its unit is defined with. -/
theorem hardwareResetState : Obligations.HardwareResetState := by
  unfold Obligations.HardwareResetState
  and_intros <;> rfl

/-- Settles O8: of the cases of a step, only the one without a command is left. -/
theorem waitsForACommand : Obligations.WaitsForACommand := fun _ => step_noCommand

/-- Settles O16: the reset state is one that `RST` leaves, and `nco`, `theta` and `mu` hold the pattern of zero. -/
theorem resetMeetsInvariants : Obligations.ResetMeetsInvariants := by
  have hzero : valueOf rZero = 0 := hasValue_zero.2
  exact ⟨reset_shape, faultsAgree_reset, hzero, hzero, hzero⟩
end
